-- ==== Sys2Proof/Word.lean ====
section
/-! DEFINITION. The word types of the machine and the two ways a byte pair makes a word (spec/10 R22, R25; 20 R60). -/

namespace Sys2Proof

/-- One byte of the data space, one general register (R20). -/
abbrev Byte := BitVec 8

/-- One program word, one data address, one word address (R25, R60, R61). -/
abbrev Word := BitVec 16

/-- The position of a general register in the register file, 0 to 31 (R20). -/
abbrev Reg := Fin 32

/-- The low byte of a word, bits 7:0. -/
abbrev Word.lo (w : Word) : Byte := w.extractLsb' 0 8

/-- The high byte of a word, bits 15:8. -/
abbrev Word.hi (w : Word) : Byte := w.extractLsb' 8 8

end Sys2Proof
end

