-- ==== Sys2Proof/Syntax.lean ====
section
/-! DEFINITION. The instructions: one constructor for each of the 142 rows of spec/opcode_table.json. The 97 decodable
rows are the machine's instructions; the 45 rows the table marks `"decode": false` are other names of words of a core
instruction (spec/30 R141), which the decoder never produces (R102) and which `Instr.base` maps to the instruction it
does produce.

Operands are what the encoding's fields select (spec/30 R110 to R122): `d`, `r` register positions, `k` an immediate, a
signed offset or an absolute address, `q` a displacement, `a` an I/O address, `b` a bit number, `i` a flag number. -/

namespace Sys2Proof

/-- The instruction set (spec/30 R125 to R127, R141). -/
inductive Instr where
  -- Arithmetic, compare and logic (R203 to R226)
  | add (d r : Reg)
  | adc (d r : Reg)
  | adiw (d : Reg) (k : BitVec 6)
  | sub (d r : Reg)
  | subi (d : Reg) (k : Byte)
  | sbc (d r : Reg)
  | sbci (d : Reg) (k : Byte)
  | sbiw (d : Reg) (k : BitVec 6)
  | and (d r : Reg)
  | andi (d : Reg) (k : Byte)
  | or (d r : Reg)
  | ori (d : Reg) (k : Byte)
  | eor (d r : Reg)
  | com (d : Reg)
  | neg (d : Reg)
  | inc (d : Reg)
  | dec (d : Reg)
  | cp (d r : Reg)
  | cpc (d r : Reg)
  | cpi (d : Reg) (k : Byte)
  -- Aliases of arithmetic and logic (R222 to R225)
  | tst (d : Reg)
  | clr (d : Reg)
  | sbr (d : Reg) (k : Byte)
  | cbr (d : Reg) (k : Byte)
  -- Multiply (R241 to R246)
  | mul (d r : Reg)
  | muls (d r : Reg)
  | mulsu (d r : Reg)
  | fmul (d r : Reg)
  | fmuls (d r : Reg)
  | fmulsu (d r : Reg)
  -- Shift, rotate, swap (R252 to R255) and the aliases LSL, ROL (R250, R251)
  | lsl (d : Reg)
  | rol (d : Reg)
  | lsr (d : Reg)
  | ror (d : Reg)
  | asr (d : Reg)
  | swap (d : Reg)
  -- Status-register bits (R260, R261)
  | bset (i : Fin 8)
  | bclr (i : Fin 8)
  -- The sixteen aliases of BSET and BCLR (R262 to R277)
  | sec
  | sez
  | sen
  | sev
  | ses
  | seh
  | set_
  | sei
  | clc
  | clz
  | cln
  | clv
  | cls
  | clh
  | clt
  | cli
  -- Bit copy through T and I/O bits (R278 to R281)
  | bst (d : Reg) (b : Fin 8)
  | bld (d : Reg) (b : Fin 8)
  | sbi (a : BitVec 5) (b : Fin 8)
  | cbi (a : BitVec 5) (b : Fin 8)
  -- Jumps, calls, returns (R303 to R312)
  | rjmp (k : BitVec 12)
  | ijmp
  | eijmp
  | jmp (k : BitVec 22)
  | rcall (k : BitVec 12)
  | icall
  | eicall
  | call (k : BitVec 22)
  | ret
  | reti
  -- Skips (R331 to R335)
  | cpse (d r : Reg)
  | sbrc (r : Reg) (b : Fin 8)
  | sbrs (r : Reg) (b : Fin 8)
  | sbic (a : BitVec 5) (b : Fin 8)
  | sbis (a : BitVec 5) (b : Fin 8)
  -- Conditional branches (R340, R341)
  | brbs (i : Fin 8) (k : BitVec 7)
  | brbc (i : Fin 8) (k : BitVec 7)
  -- The eighteen aliases of BRBS and BRBC (R342 to R359)
  | brcs (k : BitVec 7)
  | brlo (k : BitVec 7)
  | brcc (k : BitVec 7)
  | brsh (k : BitVec 7)
  | breq (k : BitVec 7)
  | brne (k : BitVec 7)
  | brmi (k : BitVec 7)
  | brpl (k : BitVec 7)
  | brvs (k : BitVec 7)
  | brvc (k : BitVec 7)
  | brlt (k : BitVec 7)
  | brge (k : BitVec 7)
  | brhs (k : BitVec 7)
  | brhc (k : BitVec 7)
  | brts (k : BitVec 7)
  | brtc (k : BitVec 7)
  | brie (k : BitVec 7)
  | brid (k : BitVec 7)
  -- Register moves and immediates (R363 to R366)
  | mov (d r : Reg)
  | movw (d r : Reg)
  | ldi (d : Reg) (k : Byte)
  | ser (d : Reg)
  -- Direct loads and stores (R367, R368)
  | lds (d : Reg) (k : Word)
  | sts (k : Word) (r : Reg)
  -- Indirect loads (R370 to R380); `ldY`, `ldZ` are the forms with q = 0
  | ldX (d : Reg)
  | ldXInc (d : Reg)
  | ldXDec (d : Reg)
  | ldY (d : Reg)
  | ldYInc (d : Reg)
  | ldYDec (d : Reg)
  | lddY (d : Reg) (q : BitVec 6)
  | ldZ (d : Reg)
  | ldZInc (d : Reg)
  | ldZDec (d : Reg)
  | lddZ (d : Reg) (q : BitVec 6)
  -- Indirect stores (R386 to R396); `stY`, `stZ` are the forms with q = 0
  | stX (r : Reg)
  | stXInc (r : Reg)
  | stXDec (r : Reg)
  | stY (r : Reg)
  | stYInc (r : Reg)
  | stYDec (r : Reg)
  | stdY (q : BitVec 6) (r : Reg)
  | stZ (r : Reg)
  | stZInc (r : Reg)
  | stZDec (r : Reg)
  | stdZ (q : BitVec 6) (r : Reg)
  -- Program-memory loads (R401 to R406)
  | lpm
  | lpmZ (d : Reg)
  | lpmZInc (d : Reg)
  | elpm
  | elpmZ (d : Reg)
  | elpmZInc (d : Reg)
  -- I/O space and stack (R410 to R413)
  | in_ (d : Reg) (a : BitVec 6)
  | out (a : BitVec 6) (r : Reg)
  | push (r : Reg)
  | pop (d : Reg)
  -- Read-modify-write through Z, decoded only with `HAS_RMW` (R420 to R423)
  | xch (d : Reg)
  | las (d : Reg)
  | lac (d : Reg)
  | lat (d : Reg)
  -- Control and no-ops (R430 to R437)
  | nop
  | sleep
  | wdr
  | break_
  | des (k : BitVec 4)
  | spm
  | spmZInc
  deriving DecidableEq, Repr

end Sys2Proof
end

