-- ==== Sys2Proof/WellFormed.lean ====
section
/-! DEFINITION. Which terms of `Instr` an encoding can name (spec/10 R23, spec/30 R111 to R113): the register ranges of
the 4-bit, 3-bit and pair fields. Every other operand is as wide as its field, so its type is its whole check. -/

namespace Sys2Proof

/-- R111: the register of a 4-bit field with the +16 offset, 16 to 31. -/
def Reg.upper (d : Reg) : Bool := 16 ≤ d.val

/-- R112: the register of a 3-bit field, 16 to 23. -/
def Reg.middle (d : Reg) : Bool := 16 ≤ d.val && d.val < 24

/-- R113: the low register of a `MOVW` pair, an even one. -/
def Reg.even (d : Reg) : Bool := d.val % 2 == 0

/-- R113: the low register of an `ADIW`/`SBIW` pair: 24, 26, 28 or 30. -/
def Reg.wordPair (d : Reg) : Bool := 24 ≤ d.val && d.val % 2 == 0

/-- The instruction can be written in its encoding (R110 to R122). -/
def Instr.wellFormed : Instr → Bool
  | .add _ _ => true
  | .adc _ _ => true
  | .adiw d _ => d.wordPair
  | .sub _ _ => true
  | .subi d _ => d.upper
  | .sbc _ _ => true
  | .sbci d _ => d.upper
  | .sbiw d _ => d.wordPair
  | .and _ _ => true
  | .andi d _ => d.upper
  | .or _ _ => true
  | .ori d _ => d.upper
  | .eor _ _ => true
  | .com _ => true
  | .neg _ => true
  | .inc _ => true
  | .dec _ => true
  | .cp _ _ => true
  | .cpc _ _ => true
  | .cpi d _ => d.upper
  | .tst _ => true
  | .clr _ => true
  | .sbr d _ => d.upper
  | .cbr d _ => d.upper
  | .mul _ _ => true
  | .muls d r => d.upper && r.upper
  | .mulsu d r => d.middle && r.middle
  | .fmul d r => d.middle && r.middle
  | .fmuls d r => d.middle && r.middle
  | .fmulsu d r => d.middle && r.middle
  | .lsl _ => true
  | .rol _ => true
  | .lsr _ => true
  | .ror _ => true
  | .asr _ => true
  | .swap _ => true
  | .bset _ => true
  | .bclr _ => true
  | .sec => true
  | .sez => true
  | .sen => true
  | .sev => true
  | .ses => true
  | .seh => true
  | .set_ => true
  | .sei => true
  | .clc => true
  | .clz => true
  | .cln => true
  | .clv => true
  | .cls => true
  | .clh => true
  | .clt => true
  | .cli => true
  | .bst _ _ => true
  | .bld _ _ => true
  | .sbi _ _ => true
  | .cbi _ _ => true
  | .rjmp _ => true
  | .ijmp => true
  | .eijmp => true
  | .jmp _ => true
  | .rcall _ => true
  | .icall => true
  | .eicall => true
  | .call _ => true
  | .ret => true
  | .reti => true
  | .cpse _ _ => true
  | .sbrc _ _ => true
  | .sbrs _ _ => true
  | .sbic _ _ => true
  | .sbis _ _ => true
  | .brbs _ _ => true
  | .brbc _ _ => true
  | .brcs _ => true
  | .brlo _ => true
  | .brcc _ => true
  | .brsh _ => true
  | .breq _ => true
  | .brne _ => true
  | .brmi _ => true
  | .brpl _ => true
  | .brvs _ => true
  | .brvc _ => true
  | .brlt _ => true
  | .brge _ => true
  | .brhs _ => true
  | .brhc _ => true
  | .brts _ => true
  | .brtc _ => true
  | .brie _ => true
  | .brid _ => true
  | .mov _ _ => true
  | .movw d r => d.even && r.even
  | .ldi d _ => d.upper
  | .ser d => d.upper
  | .lds _ _ => true
  | .sts _ _ => true
  | .ldX _ => true
  | .ldXInc _ => true
  | .ldXDec _ => true
  | .ldY _ => true
  | .ldYInc _ => true
  | .ldYDec _ => true
  | .lddY _ _ => true
  | .ldZ _ => true
  | .ldZInc _ => true
  | .ldZDec _ => true
  | .lddZ _ _ => true
  | .stX _ => true
  | .stXInc _ => true
  | .stXDec _ => true
  | .stY _ => true
  | .stYInc _ => true
  | .stYDec _ => true
  | .stdY _ _ => true
  | .stZ _ => true
  | .stZInc _ => true
  | .stZDec _ => true
  | .stdZ _ _ => true
  | .lpm => true
  | .lpmZ _ => true
  | .lpmZInc _ => true
  | .elpm => true
  | .elpmZ _ => true
  | .elpmZInc _ => true
  | .in_ _ _ => true
  | .out _ _ => true
  | .push _ => true
  | .pop _ => true
  | .xch _ => true
  | .las _ => true
  | .lac _ => true
  | .lat _ => true
  | .nop => true
  | .sleep => true
  | .wdr => true
  | .break_ => true
  | .des _ => true
  | .spm => true
  | .spmZInc => true

end Sys2Proof
end

