-- ==== Sys2Proof/Decode.lean ====
section
/-! DEFINITION. From words to instructions and back (spec/30). The decoder splits a first word by the map of R125 to R127,
top nibble first, and assembles the operands of R110 to R122; it is total, and what it does not recognise it rejects by
name. The encoder, after it, writes each row's pattern from spec/opcode_table.json. Words are read here as naturals: a
slice `w[hi:lo]` is a quotient and a remainder by powers of two. -/

namespace Sys2Proof

/-! ### Sizes and operands -/

/-- The `len` bits of `w` from bit `lo` up: the spec's `w[lo+len-1:lo]` (R9). -/
def field (w lo len : Nat) : Nat := w / 2 ^ lo % 2 ^ len

/-- R103: the size in words of the instruction whose first word is `w`; 2 for `LDS`, `STS`, `JMP`, `CALL`, else 1. -/
def wordSize (w : Word) : Nat :=
  let n := w.toNat
  if (field n 10 6 == 36 && field n 0 4 == 0) || (field n 9 7 == 74 && field n 2 2 == 3) then 2 else 1

/-- R110: a register position; a field never exceeds 31. -/
def Reg.at (n : Nat) : Reg := Fin.ofNat 32 n

/-- R120: a bit or flag number. -/
def bitAt (n : Nat) : Fin 8 := Fin.ofNat 8 n

/-- R110: the 5-bit field d, bits 8:4. -/
def d5 (w : Nat) : Reg := Reg.at (field w 4 5)

/-- R110: the 5-bit field r = w[9], w[3:0] of format `RD5_RR5`. -/
def r5 (w : Nat) : Reg := Reg.at (field w 9 1 * 16 + field w 0 4)

/-- R111: the 4-bit field d, bits 7:4, with the offset 16. -/
def d4 (w : Nat) : Reg := Reg.at (16 + field w 4 4)

/-- R111: the 4-bit field r, bits 3:0, with the offset 16 (`MULS`). -/
def r4 (w : Nat) : Reg := Reg.at (16 + field w 0 4)

/-- R112: the 3-bit field d, bits 6:4. -/
def d3 (w : Nat) : Reg := Reg.at (16 + field w 4 3)

/-- R112: the 3-bit field r, bits 2:0. -/
def r3 (w : Nat) : Reg := Reg.at (16 + field w 0 3)

/-- R113: the destination pair of `MOVW`. -/
def dPair (w : Nat) : Reg := Reg.at (2 * field w 4 4)

/-- R113: the source pair of `MOVW`. -/
def rPair (w : Nat) : Reg := Reg.at (2 * field w 0 4)

/-- R113: the pair of `ADIW` and `SBIW`. -/
def dWord (w : Nat) : Reg := Reg.at (24 + 2 * field w 4 2)

/-- R114: the 8-bit immediate K = w[11:8], w[3:0]. -/
def k8 (w : Nat) : Byte := BitVec.ofNat 8 (field w 8 4 * 16 + field w 0 4)

/-- R115: the 6-bit immediate K = w[7:6], w[3:0]. -/
def k6 (w : Nat) : BitVec 6 := BitVec.ofNat 6 (field w 6 2 * 16 + field w 0 4)

/-- R116: the displacement q = w[13], w[11:10], w[2:0]. -/
def q6 (w : Nat) : BitVec 6 := BitVec.ofNat 6 (field w 13 1 * 32 + field w 10 2 * 8 + field w 0 3)

/-- R117: the branch offset, bits 9:3. -/
def k7 (w : Nat) : BitVec 7 := BitVec.ofNat 7 (field w 3 7)

/-- R118: the relative offset, bits 11:0. -/
def k12 (w : Nat) : BitVec 12 := BitVec.ofNat 12 (field w 0 12)

/-- R119: the 6-bit I/O address A = w[10:9], w[3:0]. -/
def a6 (w : Nat) : BitVec 6 := BitVec.ofNat 6 (field w 9 2 * 16 + field w 0 4)

/-- R119: the 5-bit I/O address, bits 7:3. -/
def a5 (w : Nat) : BitVec 5 := BitVec.ofNat 5 (field w 3 5)

/-- R120: the bit number b, or the flag number s of a branch, bits 2:0. -/
def b3 (w : Nat) : Fin 8 := bitAt (field w 0 3)

/-- R120: the flag number s of `BSET`/`BCLR`, bits 6:4. -/
def s3 (w : Nat) : Fin 8 := bitAt (field w 4 3)

/-- R121: the 22-bit address: w[8:4], w[0], then the second word. -/
def k22 (w w2 : Nat) : BitVec 22 := BitVec.ofNat 22 ((field w 4 5 * 2 + field w 0 1) * 65536 + w2)

/-! ### The map -/

/-- R125, bits 15:12 = 0000. -/
def decodeNibble0 (w : Nat) : Option Instr :=
  match field w 10 2 with
  | 0 =>
    match field w 8 2 with
    | 0 => if field w 0 8 = 0 then some .nop else none
    | 1 => some (.movw (dPair w) (rPair w))
    | 2 => some (.muls (d4 w) (r4 w))
    | _ =>
      match field w 7 1, field w 3 1 with
      | 0, 0 => some (.mulsu (d3 w) (r3 w))
      | 0, _ => some (.fmul (d3 w) (r3 w))
      | _, 0 => some (.fmuls (d3 w) (r3 w))
      | _, _ => some (.fmulsu (d3 w) (r3 w))
  | 1 => some (.cpc (d5 w) (r5 w))
  | 2 => some (.sbc (d5 w) (r5 w))
  | _ => some (.add (d5 w) (r5 w))

/-- R125, bits 15:12 = 0001. -/
def decodeNibble1 (w : Nat) : Option Instr :=
  match field w 10 2 with
  | 0 => some (.cpse (d5 w) (r5 w))
  | 1 => some (.cp (d5 w) (r5 w))
  | 2 => some (.sub (d5 w) (r5 w))
  | _ => some (.adc (d5 w) (r5 w))

/-- R125, bits 15:12 = 0010. -/
def decodeNibble2 (w : Nat) : Option Instr :=
  match field w 10 2 with
  | 0 => some (.and (d5 w) (r5 w))
  | 1 => some (.eor (d5 w) (r5 w))
  | 2 => some (.or (d5 w) (r5 w))
  | _ => some (.mov (d5 w) (r5 w))

/-- R125, bits 15:12 = 1000 or 1010: the displacement forms; bit 9 = store, bit 3 = Y. -/
def decodeDisp (w : Nat) : Option Instr :=
  match field w 9 1, field w 3 1 with
  | 0, 0 => some (.lddZ (d5 w) (q6 w))
  | 0, _ => some (.lddY (d5 w) (q6 w))
  | _, 0 => some (.stdZ (q6 w) (d5 w))
  | _, _ => some (.stdY (q6 w) (d5 w))

/-- R126, bits 11:9 = 000 of the `1001` page: loads. -/
def decodeLoad (w w2 : Nat) : Option Instr :=
  match field w 0 4 with
  | 0 => some (.lds (d5 w) (BitVec.ofNat 16 w2))
  | 1 => some (.ldZInc (d5 w))
  | 2 => some (.ldZDec (d5 w))
  | 4 => some (.lpmZ (d5 w))
  | 5 => some (.lpmZInc (d5 w))
  | 6 => some (.elpmZ (d5 w))
  | 7 => some (.elpmZInc (d5 w))
  | 9 => some (.ldYInc (d5 w))
  | 10 => some (.ldYDec (d5 w))
  | 12 => some (.ldX (d5 w))
  | 13 => some (.ldXInc (d5 w))
  | 14 => some (.ldXDec (d5 w))
  | 15 => some (.pop (d5 w))
  | _ => none

/-- R126, bits 11:9 = 001 of the `1001` page: stores, and with `HAS_RMW` the read-modify-writes (R131). -/
def decodeStore (hasRmw : Bool) (w w2 : Nat) : Option Instr :=
  match field w 0 4 with
  | 0 => some (.sts (BitVec.ofNat 16 w2) (d5 w))
  | 1 => some (.stZInc (d5 w))
  | 2 => some (.stZDec (d5 w))
  | 4 => if hasRmw then some (.xch (d5 w)) else none
  | 5 => if hasRmw then some (.las (d5 w)) else none
  | 6 => if hasRmw then some (.lac (d5 w)) else none
  | 7 => if hasRmw then some (.lat (d5 w)) else none
  | 9 => some (.stYInc (d5 w))
  | 10 => some (.stYDec (d5 w))
  | 12 => some (.stX (d5 w))
  | 13 => some (.stXInc (d5 w))
  | 14 => some (.stXDec (d5 w))
  | 15 => some (.push (d5 w))
  | _ => none

/-- R127: the 32 words `1001 010x xxxx 1000`, by bits 8:4. -/
def decodeFixed8 (w : Nat) : Option Instr :=
  match field w 7 2 with
  | 0 => some (.bset (s3 w))
  | 1 => some (.bclr (s3 w))
  | _ =>
    match field w 4 4 with
    | 0 => some .ret
    | 1 => some .reti
    | 8 => some .sleep
    | 9 => some .break_
    | 10 => some .wdr
    | 12 => some .lpm
    | 13 => some .elpm
    | 14 => some .spm
    | 15 => some .spmZInc
    | _ => none

/-- R126: the words `1001 010x xxxx 1001`, by bits 8:4. -/
def decodeFixed9 (w : Nat) : Option Instr :=
  match field w 4 5 with
  | 0 => some .ijmp
  | 1 => some .eijmp
  | 16 => some .icall
  | 17 => some .eicall
  | _ => none

/-- R126, bits 11:9 = 010 of the `1001` page: one-operand and fixed forms, `JMP`, `CALL`. -/
def decodeOneOp (w w2 : Nat) : Option Instr :=
  match field w 0 4 with
  | 0 => some (.com (d5 w))
  | 1 => some (.neg (d5 w))
  | 2 => some (.swap (d5 w))
  | 3 => some (.inc (d5 w))
  | 5 => some (.asr (d5 w))
  | 6 => some (.lsr (d5 w))
  | 7 => some (.ror (d5 w))
  | 8 => decodeFixed8 w
  | 9 => decodeFixed9 w
  | 10 => some (.dec (d5 w))
  | 11 => if field w 8 1 = 0 then some (.des (BitVec.ofNat 4 (field w 4 4))) else none
  | 12 => some (.jmp (k22 w w2))
  | 13 => some (.jmp (k22 w w2))
  | 14 => some (.call (k22 w w2))
  | 15 => some (.call (k22 w w2))
  | _ => none

/-- R126: the `1001` page, by bits 11:9. -/
def decodeNibble9 (hasRmw : Bool) (w w2 : Nat) : Option Instr :=
  match field w 9 3 with
  | 0 => decodeLoad w w2
  | 1 => decodeStore hasRmw w w2
  | 2 => decodeOneOp w w2
  | 3 => if field w 8 1 = 0 then some (.adiw (dWord w) (k6 w)) else some (.sbiw (dWord w) (k6 w))
  | 4 => if field w 8 1 = 0 then some (.cbi (a5 w) (b3 w)) else some (.sbic (a5 w) (b3 w))
  | 5 => if field w 8 1 = 0 then some (.sbi (a5 w) (b3 w)) else some (.sbis (a5 w) (b3 w))
  | _ => some (.mul (d5 w) (r5 w))

/-- R125, bits 15:12 = 1111; bit 3 of the `RD5_B` forms must be 0 (R131). -/
def decodeNibble15 (w : Nat) : Option Instr :=
  match field w 10 2 with
  | 0 => some (.brbs (b3 w) (k7 w))
  | 1 => some (.brbc (b3 w) (k7 w))
  | _ =>
    if field w 3 1 = 0 then
      match field w 9 2 with
      | 0 => some (.bld (d5 w) (b3 w))
      | 1 => some (.bst (d5 w) (b3 w))
      | 2 => some (.sbrc (d5 w) (b3 w))
      | _ => some (.sbrs (d5 w) (b3 w))
    else none

/-- R101, R152, R153: the instruction whose first word is `w` and, where it has two words, whose second word is `w2`;
`none` for the unrecognised words of R131. A one-word instruction does not depend on `w2`. -/
def decodeWords (hasRmw : Bool) (w w2 : Word) : Option Instr :=
  let n := w.toNat
  match field n 12 4 with
  | 0 => decodeNibble0 n
  | 1 => decodeNibble1 n
  | 2 => decodeNibble2 n
  | 3 => some (.cpi (d4 n) (k8 n))
  | 4 => some (.sbci (d4 n) (k8 n))
  | 5 => some (.subi (d4 n) (k8 n))
  | 6 => some (.ori (d4 n) (k8 n))
  | 7 => some (.andi (d4 n) (k8 n))
  | 8 => decodeDisp n
  | 9 => decodeNibble9 hasRmw n w2.toNat
  | 10 => decodeDisp n
  | 11 => if field n 11 1 = 0 then some (.in_ (d5 n) (a6 n)) else some (.out (a6 n) (d5 n))
  | 12 => some (.rjmp (k12 n))
  | 13 => some (.rcall (k12 n))
  | 14 => some (.ldi (d4 n) (k8 n))
  | _ => decodeNibble15 n

/-- Why a list of words does not begin with an instruction. -/
inductive DecodeReject where
  /-- The list is empty. -/
  | noWord
  /-- R130: the first word matches no decodable row; the machine executes it as a no-op (R440). -/
  | unrecognised (w : Word)
  /-- The first word is that of a two-word instruction and the list ends after it. -/
  | secondWordMissing (w : Word)
  deriving DecidableEq, Repr

/-- The first instruction of a list of words, and the words after it; total, rejecting by name. -/
def decode (hasRmw : Bool) : List Word → Except DecodeReject (Instr × List Word)
  | [] => .error .noWord
  | w :: rest =>
    if wordSize w = 2 then
      match rest with
      | [] => .error (.secondWordMissing w)
      | w2 :: rest' =>
        match decodeWords hasRmw w w2 with
        | some i => .ok (i, rest')
        | none => .error (.unrecognised w)
    else
      match decodeWords hasRmw w 0 with
      | some i => .ok (i, rest)
      | none => .error (.unrecognised w)

/-! ### The table's numbering -/

/-- The first word of a table number of `nbits` bits: its bits 15:0. -/
def tableWord1 (nbits w : Nat) : Word := BitVec.ofNat 16 (w % 2 ^ nbits)

/-- The second word of a table number of `nbits` bits: its bits 31:16, zero where the table gives none. -/
def tableWord2 (nbits w : Nat) : Word := BitVec.ofNat 16 (w % 2 ^ nbits / 65536)

/-- R131: the first word is one of the 128 words that are recognised only with `HAS_RMW`. -/
def isRmwWord (w : Word) : Bool := field w.toNat 9 7 == 73 && field w.toNat 2 2 == 1

/-- What this decoder reads from a row of spec/opcode_table.json. The four rows conditional on `HAS_RMW` are read with the
parameter true (log entry 6). -/
def decodeTableWord (nbits w : Nat) : Option Instr :=
  decodeWords true (tableWord1 nbits w) (tableWord2 nbits w)

/-! ### Other names of a core instruction -/

/-- R141: the instruction the decoder produces for the words of `i`: `i` itself for a decodable row, the base instruction
for an alias. -/
def Instr.base : Instr → Instr
  | .tst d => .and d d
  | .clr d => .eor d d
  | .sbr d k => .ori d k
  | .cbr d k => .andi d (0xFF - k)
  | .lsl d => .add d d
  | .rol d => .adc d d
  | .ser d => .ldi d 0xFF
  | .ldY d => .lddY d 0
  | .ldZ d => .lddZ d 0
  | .stY r => .stdY 0 r
  | .stZ r => .stdZ 0 r
  | .sec => .bset 0
  | .sez => .bset 1
  | .sen => .bset 2
  | .sev => .bset 3
  | .ses => .bset 4
  | .seh => .bset 5
  | .set_ => .bset 6
  | .sei => .bset 7
  | .clc => .bclr 0
  | .clz => .bclr 1
  | .cln => .bclr 2
  | .clv => .bclr 3
  | .cls => .bclr 4
  | .clh => .bclr 5
  | .clt => .bclr 6
  | .cli => .bclr 7
  | .brcs k => .brbs 0 k
  | .brlo k => .brbs 0 k
  | .brcc k => .brbc 0 k
  | .brsh k => .brbc 0 k
  | .breq k => .brbs 1 k
  | .brne k => .brbc 1 k
  | .brmi k => .brbs 2 k
  | .brpl k => .brbc 2 k
  | .brvs k => .brbs 3 k
  | .brvc k => .brbc 3 k
  | .brlt k => .brbs 4 k
  | .brge k => .brbc 4 k
  | .brhs k => .brbs 5 k
  | .brhc k => .brbc 5 k
  | .brts k => .brbs 6 k
  | .brtc k => .brbc 6 k
  | .brie k => .brbs 7 k
  | .brid k => .brbc 7 k
  | i => i

/-! ### The encoder -/

/-- Format `RD5_RR5`: the two 5-bit fields (R105). -/
def fRdRr (d r : Reg) : Nat := r.val / 16 * 512 + d.val * 16 + r.val % 16

/-- Format `RD5`: the 5-bit field (R105). -/
def fRd (d : Reg) : Nat := d.val * 16

/-- Format `RD4_RR4`: two 4-bit fields, registers 16 to 31 (R111). -/
def fRd4Rr4 (d r : Reg) : Nat := (d.val - 16) * 16 + (r.val - 16)

/-- Format `RD3_RR3`: two 3-bit fields, registers 16 to 23 (R112). -/
def fRd3Rr3 (d r : Reg) : Nat := (d.val - 16) * 16 + (r.val - 16)

/-- Format `MOVW`: two pair fields (R113). -/
def fMovw (d r : Reg) : Nat := d.val / 2 * 16 + r.val / 2

/-- Format `RD4_K8`: an upper register and an 8-bit immediate (R111, R114). -/
def fRdK8 (d : Reg) (k : Byte) : Nat := k.toNat / 16 * 256 + (d.val - 16) * 16 + k.toNat % 16

/-- Format `PAIR_K6`: a word pair and a 6-bit immediate (R113, R115). -/
def fPairK6 (d : Reg) (k : BitVec 6) : Nat := k.toNat / 16 * 64 + (d.val - 24) / 2 * 16 + k.toNat % 16

/-- Format `IO5_B`: a 5-bit I/O address and a bit number (R119, R120). -/
def fIoB (a : BitVec 5) (b : Fin 8) : Nat := a.toNat * 8 + b.val

/-- Format `IO6_RD5`: a 6-bit I/O address and a register (R119). -/
def fIoRd (a : BitVec 6) (d : Reg) : Nat := a.toNat / 16 * 512 + d.val * 16 + a.toNat % 16

/-- Format `BR_S_K7`: a flag number and a 7-bit offset (R117, R120). -/
def fBr (i : Nat) (k : BitVec 7) : Nat := k.toNat * 8 + i

/-- Format `RD5_B`: a register and a bit number (R120). -/
def fRdB (d : Reg) (b : Fin 8) : Nat := d.val * 16 + b.val

/-- Format `DISP_Q`: a register and a displacement (R116). -/
def fDisp (d : Reg) (q : BitVec 6) : Nat :=
  q.toNat / 32 * 8192 + q.toNat / 8 % 4 * 1024 + d.val * 16 + q.toNat % 8

/-- Format `ABS22`: the six high address bits in the first word (R121). -/
def fAbs22 (k : BitVec 22) : Nat := k.toNat / 131072 * 16 + k.toNat / 65536 % 2

/-- Format `ABS22`: the second word (R121). -/
def abs22Word2 (k : BitVec 22) : Word := BitVec.ofNat 16 k.toNat

/-- The words of an instruction, each row's pattern of spec/opcode_table.json (R105). -/
def encode : Instr → List Word
  | .add d r => [BitVec.ofNat 16 (0x0C00 + fRdRr d r)]
  | .adc d r => [BitVec.ofNat 16 (0x1C00 + fRdRr d r)]
  | .adiw d k => [BitVec.ofNat 16 (0x9600 + fPairK6 d k)]
  | .sub d r => [BitVec.ofNat 16 (0x1800 + fRdRr d r)]
  | .subi d k => [BitVec.ofNat 16 (0x5000 + fRdK8 d k)]
  | .sbc d r => [BitVec.ofNat 16 (0x0800 + fRdRr d r)]
  | .sbci d k => [BitVec.ofNat 16 (0x4000 + fRdK8 d k)]
  | .sbiw d k => [BitVec.ofNat 16 (0x9700 + fPairK6 d k)]
  | .and d r => [BitVec.ofNat 16 (0x2000 + fRdRr d r)]
  | .andi d k => [BitVec.ofNat 16 (0x7000 + fRdK8 d k)]
  | .or d r => [BitVec.ofNat 16 (0x2800 + fRdRr d r)]
  | .ori d k => [BitVec.ofNat 16 (0x6000 + fRdK8 d k)]
  | .eor d r => [BitVec.ofNat 16 (0x2400 + fRdRr d r)]
  | .com d => [BitVec.ofNat 16 (0x9400 + fRd d)]
  | .neg d => [BitVec.ofNat 16 (0x9401 + fRd d)]
  | .inc d => [BitVec.ofNat 16 (0x9403 + fRd d)]
  | .dec d => [BitVec.ofNat 16 (0x940A + fRd d)]
  | .cp d r => [BitVec.ofNat 16 (0x1400 + fRdRr d r)]
  | .cpc d r => [BitVec.ofNat 16 (0x0400 + fRdRr d r)]
  | .cpi d k => [BitVec.ofNat 16 (0x3000 + fRdK8 d k)]
  | .tst d => [BitVec.ofNat 16 (0x2000 + fRdRr d d)]
  | .clr d => [BitVec.ofNat 16 (0x2400 + fRdRr d d)]
  | .sbr d k => [BitVec.ofNat 16 (0x6000 + fRdK8 d k)]
  | .cbr d k => [BitVec.ofNat 16 (0x7000 + fRdK8 d (0xFF - k))]
  | .mul d r => [BitVec.ofNat 16 (0x9C00 + fRdRr d r)]
  | .muls d r => [BitVec.ofNat 16 (0x0200 + fRd4Rr4 d r)]
  | .mulsu d r => [BitVec.ofNat 16 (0x0300 + fRd3Rr3 d r)]
  | .fmul d r => [BitVec.ofNat 16 (0x0308 + fRd3Rr3 d r)]
  | .fmuls d r => [BitVec.ofNat 16 (0x0380 + fRd3Rr3 d r)]
  | .fmulsu d r => [BitVec.ofNat 16 (0x0388 + fRd3Rr3 d r)]
  | .lsl d => [BitVec.ofNat 16 (0x0C00 + fRdRr d d)]
  | .rol d => [BitVec.ofNat 16 (0x1C00 + fRdRr d d)]
  | .lsr d => [BitVec.ofNat 16 (0x9406 + fRd d)]
  | .ror d => [BitVec.ofNat 16 (0x9407 + fRd d)]
  | .asr d => [BitVec.ofNat 16 (0x9405 + fRd d)]
  | .swap d => [BitVec.ofNat 16 (0x9402 + fRd d)]
  | .bset i => [BitVec.ofNat 16 (0x9408 + i.val * 16)]
  | .bclr i => [BitVec.ofNat 16 (0x9488 + i.val * 16)]
  | .sec => [0x9408]
  | .sez => [0x9418]
  | .sen => [0x9428]
  | .sev => [0x9438]
  | .ses => [0x9448]
  | .seh => [0x9458]
  | .set_ => [0x9468]
  | .sei => [0x9478]
  | .clc => [0x9488]
  | .clz => [0x9498]
  | .cln => [0x94A8]
  | .clv => [0x94B8]
  | .cls => [0x94C8]
  | .clh => [0x94D8]
  | .clt => [0x94E8]
  | .cli => [0x94F8]
  | .bst d b => [BitVec.ofNat 16 (0xFA00 + fRdB d b)]
  | .bld d b => [BitVec.ofNat 16 (0xF800 + fRdB d b)]
  | .sbi a b => [BitVec.ofNat 16 (0x9A00 + fIoB a b)]
  | .cbi a b => [BitVec.ofNat 16 (0x9800 + fIoB a b)]
  | .rjmp k => [BitVec.ofNat 16 (0xC000 + k.toNat)]
  | .ijmp => [0x9409]
  | .eijmp => [0x9419]
  | .jmp k => [BitVec.ofNat 16 (0x940C + fAbs22 k), abs22Word2 k]
  | .rcall k => [BitVec.ofNat 16 (0xD000 + k.toNat)]
  | .icall => [0x9509]
  | .eicall => [0x9519]
  | .call k => [BitVec.ofNat 16 (0x940E + fAbs22 k), abs22Word2 k]
  | .ret => [0x9508]
  | .reti => [0x9518]
  | .cpse d r => [BitVec.ofNat 16 (0x1000 + fRdRr d r)]
  | .sbrc r b => [BitVec.ofNat 16 (0xFC00 + fRdB r b)]
  | .sbrs r b => [BitVec.ofNat 16 (0xFE00 + fRdB r b)]
  | .sbic a b => [BitVec.ofNat 16 (0x9900 + fIoB a b)]
  | .sbis a b => [BitVec.ofNat 16 (0x9B00 + fIoB a b)]
  | .brbs i k => [BitVec.ofNat 16 (0xF000 + fBr i.val k)]
  | .brbc i k => [BitVec.ofNat 16 (0xF400 + fBr i.val k)]
  | .brcs k => [BitVec.ofNat 16 (0xF000 + fBr 0 k)]
  | .brlo k => [BitVec.ofNat 16 (0xF000 + fBr 0 k)]
  | .brcc k => [BitVec.ofNat 16 (0xF400 + fBr 0 k)]
  | .brsh k => [BitVec.ofNat 16 (0xF400 + fBr 0 k)]
  | .breq k => [BitVec.ofNat 16 (0xF000 + fBr 1 k)]
  | .brne k => [BitVec.ofNat 16 (0xF400 + fBr 1 k)]
  | .brmi k => [BitVec.ofNat 16 (0xF000 + fBr 2 k)]
  | .brpl k => [BitVec.ofNat 16 (0xF400 + fBr 2 k)]
  | .brvs k => [BitVec.ofNat 16 (0xF000 + fBr 3 k)]
  | .brvc k => [BitVec.ofNat 16 (0xF400 + fBr 3 k)]
  | .brlt k => [BitVec.ofNat 16 (0xF000 + fBr 4 k)]
  | .brge k => [BitVec.ofNat 16 (0xF400 + fBr 4 k)]
  | .brhs k => [BitVec.ofNat 16 (0xF000 + fBr 5 k)]
  | .brhc k => [BitVec.ofNat 16 (0xF400 + fBr 5 k)]
  | .brts k => [BitVec.ofNat 16 (0xF000 + fBr 6 k)]
  | .brtc k => [BitVec.ofNat 16 (0xF400 + fBr 6 k)]
  | .brie k => [BitVec.ofNat 16 (0xF000 + fBr 7 k)]
  | .brid k => [BitVec.ofNat 16 (0xF400 + fBr 7 k)]
  | .mov d r => [BitVec.ofNat 16 (0x2C00 + fRdRr d r)]
  | .movw d r => [BitVec.ofNat 16 (0x0100 + fMovw d r)]
  | .ldi d k => [BitVec.ofNat 16 (0xE000 + fRdK8 d k)]
  | .ser d => [BitVec.ofNat 16 (0xE000 + fRdK8 d 0xFF)]
  | .lds d k => [BitVec.ofNat 16 (0x9000 + fRd d), k]
  | .sts k r => [BitVec.ofNat 16 (0x9200 + fRd r), k]
  | .ldX d => [BitVec.ofNat 16 (0x900C + fRd d)]
  | .ldXInc d => [BitVec.ofNat 16 (0x900D + fRd d)]
  | .ldXDec d => [BitVec.ofNat 16 (0x900E + fRd d)]
  | .ldY d => [BitVec.ofNat 16 (0x8008 + fRd d)]
  | .ldYInc d => [BitVec.ofNat 16 (0x9009 + fRd d)]
  | .ldYDec d => [BitVec.ofNat 16 (0x900A + fRd d)]
  | .lddY d q => [BitVec.ofNat 16 (0x8008 + fDisp d q)]
  | .ldZ d => [BitVec.ofNat 16 (0x8000 + fRd d)]
  | .ldZInc d => [BitVec.ofNat 16 (0x9001 + fRd d)]
  | .ldZDec d => [BitVec.ofNat 16 (0x9002 + fRd d)]
  | .lddZ d q => [BitVec.ofNat 16 (0x8000 + fDisp d q)]
  | .stX r => [BitVec.ofNat 16 (0x920C + fRd r)]
  | .stXInc r => [BitVec.ofNat 16 (0x920D + fRd r)]
  | .stXDec r => [BitVec.ofNat 16 (0x920E + fRd r)]
  | .stY r => [BitVec.ofNat 16 (0x8208 + fRd r)]
  | .stYInc r => [BitVec.ofNat 16 (0x9209 + fRd r)]
  | .stYDec r => [BitVec.ofNat 16 (0x920A + fRd r)]
  | .stdY q r => [BitVec.ofNat 16 (0x8208 + fDisp r q)]
  | .stZ r => [BitVec.ofNat 16 (0x8200 + fRd r)]
  | .stZInc r => [BitVec.ofNat 16 (0x9201 + fRd r)]
  | .stZDec r => [BitVec.ofNat 16 (0x9202 + fRd r)]
  | .stdZ q r => [BitVec.ofNat 16 (0x8200 + fDisp r q)]
  | .lpm => [0x95C8]
  | .lpmZ d => [BitVec.ofNat 16 (0x9004 + fRd d)]
  | .lpmZInc d => [BitVec.ofNat 16 (0x9005 + fRd d)]
  | .elpm => [0x95D8]
  | .elpmZ d => [BitVec.ofNat 16 (0x9006 + fRd d)]
  | .elpmZInc d => [BitVec.ofNat 16 (0x9007 + fRd d)]
  | .in_ d a => [BitVec.ofNat 16 (0xB000 + fIoRd a d)]
  | .out a r => [BitVec.ofNat 16 (0xB800 + fIoRd a r)]
  | .push r => [BitVec.ofNat 16 (0x920F + fRd r)]
  | .pop d => [BitVec.ofNat 16 (0x900F + fRd d)]
  | .xch d => [BitVec.ofNat 16 (0x9204 + fRd d)]
  | .las d => [BitVec.ofNat 16 (0x9205 + fRd d)]
  | .lac d => [BitVec.ofNat 16 (0x9206 + fRd d)]
  | .lat d => [BitVec.ofNat 16 (0x9207 + fRd d)]
  | .nop => [0x0000]
  | .sleep => [0x9588]
  | .wdr => [0x95A8]
  | .break_ => [0x9598]
  | .des k => [BitVec.ofNat 16 (0x940B + k.toNat * 16)]
  | .spm => [0x95E8]
  | .spmZInc => [0x95F8]

end Sys2Proof
end

