-- ==== Sys2Proof/Machine/Flags.lean ====
section
/-! DEFINITION. The status register as eight named flags and every flag computation of the spec: R200 to R202, R205, R210,
R216 to R219 (spec/41), R240 (spec/42), R258, R260, R261 (spec/43). Each computation is given the flags as they were and
returns them with exactly the flags the rule names replaced. -/

namespace Sys2Proof.Machine

/-- The eight flags of `SREG`, bit 0 first (R27). -/
structure Flags where
  c : Bool
  z : Bool
  n : Bool
  v : Bool
  s : Bool
  h : Bool
  t : Bool
  i : Bool
  deriving DecidableEq, Repr

/-- R27: the flags of a status byte. -/
def Flags.ofByte (b : Byte) : Flags where
  c := b[0]
  z := b[1]
  n := b[2]
  v := b[3]
  s := b[4]
  h := b[5]
  t := b[6]
  i := b[7]

/-- R27: the status byte of the flags. -/
def Flags.toByte (f : Flags) : Byte :=
  BitVec.ofBool f.i ++ BitVec.ofBool f.t ++ BitVec.ofBool f.h ++ BitVec.ofBool f.s ++
    BitVec.ofBool f.v ++ BitVec.ofBool f.n ++ BitVec.ofBool f.z ++ BitVec.ofBool f.c

/-- R120: flag number `k` of `SREG`. -/
def Flags.get (f : Flags) (k : Fin 8) : Bool :=
  match k with
  | 0 => f.c
  | 1 => f.z
  | 2 => f.n
  | 3 => f.v
  | 4 => f.s
  | 5 => f.h
  | 6 => f.t
  | 7 => f.i

/-- R260, R261: flag number `k` replaced, the other seven unchanged. -/
def Flags.put (f : Flags) (k : Fin 8) (b : Bool) : Flags :=
  match k with
  | 0 => { f with c := b }
  | 1 => { f with z := b }
  | 2 => { f with n := b }
  | 3 => { f with v := b }
  | 4 => { f with s := b }
  | 5 => { f with h := b }
  | 6 => { f with t := b }
  | 7 => { f with i := b }

/-- R200 `AddFlags(a, b, r)`. -/
def addFlags (f : Flags) (a b r : Byte) : Flags :=
  let v := (a[7] && b[7] && !r[7]) || (!a[7] && !b[7] && r[7])
  { f with
    h := (a[3] && b[3]) || (b[3] && !r[3]) || (!r[3] && a[3])
    c := (a[7] && b[7]) || (b[7] && !r[7]) || (!r[7] && a[7])
    v := v
    n := r[7]
    z := r == 0
    s := r[7] ^^ v }

/-- R201 `SubFlags(a, b, r, sticky)`: with `sticky` a zero result never sets a cleared Z. -/
def subFlags (f : Flags) (a b r : Byte) (sticky : Bool) : Flags :=
  let v := (a[7] && !b[7] && !r[7]) || (!a[7] && b[7] && r[7])
  { f with
    h := (!a[3] && b[3]) || (b[3] && r[3]) || (r[3] && !a[3])
    c := (!a[7] && b[7]) || (b[7] && r[7]) || (r[7] && !a[7])
    v := v
    n := r[7]
    z := if sticky then r == 0 && f.z else r == 0
    s := r[7] ^^ v }

/-- R202 `LogicFlags(r)`: V cleared, S equal to N; C and H unchanged. -/
def logicFlags (f : Flags) (r : Byte) : Flags :=
  { f with v := false, n := r[7], z := r == 0, s := r[7] }

/-- R205: the flags of `ADIW`; H unchanged. -/
def adiwFlags (f : Flags) (a r : Word) : Flags :=
  let v := !a[15] && r[15]
  { f with v := v, c := !r[15] && a[15], n := r[15], z := r == 0, s := r[15] ^^ v }

/-- R210: the flags of `SBIW`; H unchanged, Z not sticky. -/
def sbiwFlags (f : Flags) (a r : Word) : Flags :=
  let v := a[15] && !r[15]
  { f with v := v, c := r[15] && !a[15], n := r[15], z := r == 0, s := r[15] ^^ v }

/-- R216: the flags of `COM`: `LogicFlags` and C set. -/
def comFlags (f : Flags) (r : Byte) : Flags := { logicFlags f r with c := true }

/-- R217: the flags of `NEG`, of the old value `a` and the result `r`. -/
def negFlags (f : Flags) (a r : Byte) : Flags :=
  let v := r == 0x80
  { f with h := r[3] || a[3], v := v, c := r != 0, n := r[7], z := r == 0, s := r[7] ^^ v }

/-- R218, R219: the flags of `INC` (overflow at 0x80) and `DEC` (overflow at 0x7F); C and H unchanged. -/
def stepFlags (f : Flags) (r overflowAt : Byte) : Flags :=
  let v := r == overflowAt
  { f with v := v, n := r[7], z := r == 0, s := r[7] ^^ v }

/-- R258 `ShiftRightFlags(a, res)`: C the bit shifted out, V = N ^ C, S = N ^ V; H unchanged. -/
def shiftRightFlags (f : Flags) (a r : Byte) : Flags :=
  let v := r[7] ^^ a[0]
  { f with c := a[0], n := r[7], z := r == 0, v := v, s := r[7] ^^ v }

/-- R240: C is bit 15 of the product before the shift, Z is whether the stored result is zero; nothing else is written. -/
def mulFlags (f : Flags) (product result : Word) : Flags :=
  { f with c := product[15], z := result == 0 }

end Sys2Proof.Machine
end

