-- ==== Sys2Proof/Config.lean ====
section
/-! DEFINITION. What is fixed for a run: the parameters of spec/00 R8 as one record of plain data, and the free values the
environment supplies (spec/93 U7, U8, U9). The record is carried in the machine's state (log entry 1), so a claim about
every state is a claim about every configuration. -/

namespace Sys2Proof

/-- Which pending vector the priority register takes when a pending bit is cleared (R8 `INT_RECOMPUTE`, R505). -/
inductive Recompute where
  | lowestFirst
  | highestFirst
  deriving DecidableEq, Repr

/-- A peripheral binding (R68): the data addresses `first` to `last`, whether a read handler and a write handler are
chained there, and the bytes its optional init callback writes, in order (R71; none where it has no callback). Only the
I/O space 32 to 255 is ever routed to a handler (R63). -/
structure Binding where
  first : Nat
  last : Nat
  onRead : Bool
  onWrite : Bool
  init : List (Nat × Byte)
  deriving DecidableEq, Repr

/-- The implementation parameters of R8. `bindings` and `callouts` stand for `io_handler` and `write_veto`: where a
handler chain or a write callout is registered. What they answer is a free value. -/
structure Config where
  romWords : Nat
  dataSize : Nat
  eepromSize : Nat
  spInit : Word
  intRecompute : Recompute
  hasRmw : Bool
  bindings : List Binding
  callouts : List Nat
  deriving DecidableEq, Repr

/-- The legal ranges of R8. -/
abbrev Config.Legal (c : Config) : Prop :=
  1 ≤ c.romWords ∧ c.romWords ≤ 65536 ∧ 257 ≤ c.dataSize ∧ c.dataSize ≤ 65536

/-- R60: the I/O space is data addresses 32 to 255. -/
def Config.ioSpace (a : Nat) : Bool := 32 ≤ a && a ≤ 255

/-- R68: the addresses of a binding. -/
def Binding.covers (b : Binding) (a : Nat) : Bool := b.first ≤ a && a ≤ b.last

/-- The I/O byte `a` is the binding's own (R157). -/
def Binding.owns (b : Binding) (a : Nat) : Bool := Config.ioSpace a && b.covers a

/-- R64: a read chain is registered at the I/O address `a`. -/
def Config.readChained (c : Config) (a : Nat) : Bool :=
  Config.ioSpace a && c.bindings.any fun b => b.onRead && b.covers a

/-- R65: a write chain is registered at the I/O address `a`. -/
def Config.writeChained (c : Config) (a : Nat) : Bool :=
  Config.ioSpace a && c.bindings.any fun b => b.onWrite && b.covers a

/-- R157: the I/O byte `a` is owned by some binding, so its callbacks and handlers may change it. -/
def Config.owned (c : Config) (a : Nat) : Bool := c.bindings.any fun b => b.owns a

/-- A write at `a` leaves the byte at `b` alone: it is another byte, and no binding's where a write chain takes the write (R70). -/
abbrev Config.Spares (c : Config) (a : Word) (b : Nat) : Prop :=
  b ≠ a.toNat ∧ (c.writeChained a.toNat = true → c.owned b = false)

/-- The I/O bytes that some binding owns, rising. -/
def Config.ownedBytes (c : Config) : List Nat := (List.range' 32 224).filter c.owned

/-- R71, R560: what the init callbacks write, binding after binding in the order of registration, each in its own I/O bytes. -/
def Config.initWrites (c : Config) : List (Nat × Byte) :=
  c.bindings.flatMap fun b => b.init.filter fun x => b.owns x.1

/-- R73: the core-only configuration, with no peripheral binding and no write callout. -/
abbrev Config.CoreOnly (c : Config) : Prop := c.bindings = [] ∧ c.callouts = []

/-- The configuration of `State.reset`. `SP_INIT`, `INT_RECOMPUTE`, `HAS_RMW` and the environment are the defaults of R8.
DESIGN CHOICE (log entry 1): `ROM_WORDS` and `DATA_SIZE`, which R8 leaves open, are the spec's own example values. -/
def Config.standard : Config where
  romWords := 16384
  dataSize := 0x0900
  eepromSize := 0
  spInit := 0x08FF
  intRecompute := .lowestFirst
  hasRmw := false
  bindings := []
  callouts := []

/-- The `n`-th byte the environment supplies: the value of a handled read (U7), or what a handled write leaves in an I/O
byte (U8). It has no body: nothing constrains it (log entry 4). -/
opaque Config.freeByte : Nat → Byte

/-- The `n`-th answer of the write callouts: whether a write is vetoed (U9). It has no body (log entry 4). -/
opaque Config.freeVeto : Nat → Bool

end Sys2Proof
end

