-- ==== Sys2Proof/Machine/Memory.lean ====
section
/-! DEFINITION. Sparse storage in one canonical form: a list of (address, value) pairs, addresses strictly rising, no pair
holding the value an unlisted address reads as. That value is zero, for the data space and for program memory alike
(spec/10 R42, spec/70 R560: "all bytes zero-initialized", every program word 0x0000). Equal memories are equal lists. -/

namespace Sys2Proof.Machine

/-- Storage of `w`-bit values: bytes of the data space (R60) or words of program memory (R61). -/
abbrev Memory (w : Nat) := List (Nat × BitVec w)

/-- What an address that no pair lists reads as (R42, R560). -/
def Memory.unlisted {w : Nat} : BitVec w := 0

/-- The value stored at address `a`. -/
def Memory.get {w : Nat} (m : Memory w) (a : Nat) : BitVec w :=
  match m with
  | [] => Memory.unlisted
  | (k, v) :: t => if k = a then v else Memory.get t a

/-- One pair in front of a memory whose addresses lie above it; none where the value is the unlisted one. -/
def Memory.cell {w : Nat} (a : Nat) (v : BitVec w) (m : Memory w) : Memory w :=
  if v = Memory.unlisted then m else (a, v) :: m

/-- Store `v` at address `a`, keeping the canonical form. -/
def Memory.set {w : Nat} (m : Memory w) (a : Nat) (v : BitVec w) : Memory w :=
  match m with
  | [] => Memory.cell a v []
  | (k, x) :: t =>
    if a < k then Memory.cell a v ((k, x) :: t)
    else if a = k then Memory.cell a v t
    else (k, x) :: Memory.set t a v

/-- Store values one after another, as a loader or an init callback does. -/
def Memory.setAll {w : Nat} (m : Memory w) (writes : List (Nat × BitVec w)) : Memory w :=
  writes.foldl (fun m c => m.set c.1 c.2) m

/-- Every address of `m` is at least `lo`, addresses rise strictly, and no pair holds the unlisted value. -/
def Memory.wfFrom {w : Nat} (lo : Nat) : Memory w → Bool
  | [] => true
  | (k, v) :: t => decide (lo ≤ k) && decide (v ≠ Memory.unlisted) && Memory.wfFrom (k + 1) t

/-- The canonical form. -/
def Memory.wf {w : Nat} (m : Memory w) : Bool := Memory.wfFrom 0 m

/-- Every listed address is below `bound`. -/
def Memory.below {w : Nat} (bound : Nat) (m : Memory w) : Bool := m.all fun c => decide (c.1 < bound)

end Sys2Proof.Machine
end

