-- ==== Sys2Proof/Machine/State.lean ====
section
/-! DEFINITION. The state of the machine as plain data, its reset value, and the reasons a step can stop (spec/10; spec/60
R520, R521; spec/70 R560). The 32 general registers, `SREG` and `SP` are bytes of the data space `dm` and have no second
home (R21, R27, R30): the accessors of Machine/Ops.lean read and write them there. -/

namespace Sys2Proof.Machine

/-- What the environment does to the core in a tick phase (R157). Vectors are 5-bit values (R503, decision D19). -/
inductive EnvEvent where
  /-- `irq_raise(v)` (R503). -/
  | irqRaise (v : BitVec 5)
  /-- `irq_clear(v)` (R504). -/
  | irqClear (v : BitVec 5)
  /-- A binding's clock callback leaves `v` in the I/O byte `a`, if a binding owns it (R157). -/
  | ioByte (a : Nat) (v : Byte)
  deriving DecidableEq, Repr

/-- The output events of the core (R7), `tick` and `fatal` apart. -/
inductive Output where
  /-- `irq_ack(v)` (R507). -/
  | irqAck (v : Byte)
  /-- `int_entry(v)` (R512). -/
  | intEntry (v : Byte)
  /-- `int_exit` (R312, R512). -/
  | intExit
  /-- `wdr` (R433). -/
  | wdr
  /-- `brk` (R434). -/
  | brk
  /-- The read chain at the I/O address is invoked, its handlers in the order of registration (R69). -/
  | ioRead (a : Word)
  /-- The write chain at the I/O address is invoked with the byte, its handlers in the order of registration (R70). -/
  | ioWrite (a : Word) (v : Byte)
  /-- The write of the byte is offered to the callouts at the address (R72). -/
  | writeOffer (a : Word) (v : Byte)
  deriving DecidableEq, Repr

/-- The state of the core (spec/10), its program memory and configuration (R40: fixed for a run; no step changes them),
and what the model records of its environment. -/
structure State where
  /-- `DM` (R60): registers R0 to R31 at 0 to 31, I/O space at 32 to 255 with `SPL` 0x5D, `SPH` 0x5E, `SREG` 0x5F, RAM above. -/
  dm : Memory 8
  /-- `ROM` (R61), by word address. -/
  rom : Memory 16
  /-- The program counter, a word address (R25). -/
  pc : Word
  /-- The cycle counter (R32), an unbounded natural (decision D30). -/
  cycles : Nat
  /-- The instruction counter (R33), an unbounded natural (decision D30). -/
  instructions : Nat
  /-- The asleep flag (R34). -/
  asleep : Bool
  /-- The interrupt priority register: a vector number, or 255 for none (R35). -/
  intPrio : Byte
  /-- The interrupt pending mask, one bit a vector (R36). -/
  intPending : BitVec 32
  /-- How many `tick` pulses the core has given (R157, R582). -/
  ticks : Nat
  /-- The output events the core has emitted, newest first (R512). -/
  outputs : List Output
  /-- The environment events of the coming tick phases, one list a step; none once the list is used up (D19). -/
  schedule : List (List EnvEvent)
  /-- How many free values the environment has supplied (log entry 4). -/
  draws : Nat
  /-- The parameters of R8. -/
  cfg : Config
  deriving DecidableEq, Repr

/-- Why the machine stops. Both are the terminal fatal fault of R520, carrying the address (R521); both are safe: the spec
says the core stops there and nothing follows. -/
inductive Fault where
  /-- R521: a `MemRead` or `MemWrite` at an address not below `DATA_SIZE`; raised by the memory dispatch. -/
  | dataOutOfRange (addr : Word)
  /-- R521: a `PmRead` at a word address not below `ROM_WORDS`; raised by fetch, second word, skip sizing, `LPM`/`ELPM`. -/
  | programOutOfRange (addr : Word)
  deriving DecidableEq, Repr

/-- Why the model makes no claim about an instruction. -/
inductive Refusal where
  /-- An instruction that has no meaning in the model; raised by the dispatch only; safe. -/
  | notModelled (mnemonic : String)
  /-- R362, decision D16, U1: a pointer update whose data register is half of that pointer; raised by the indirect forms of
  `LD`, `ST`, `LPM`, `ELPM`; safe: the spec says a model refuses these 28 encodings. -/
  | pointerOverlap
  deriving DecidableEq, Repr

/-- What the loader supplies (R563): words at word addresses and preset data bytes, each list in the order of writing. -/
structure Image where
  program : List (Nat × Word)
  data : List (Nat × Byte)
  deriving DecidableEq, Repr

/-- R560: construction, in its order: zeros, `SP`, the counters, the loader (R563; it reaches only addresses that exist),
then the init callbacks of the bindings (R71). -/
def State.construct (c : Config) (image : Image) : State where
  dm :=
    let zeroed : Memory 8 := Memory.set (Memory.set [] 0x5D c.spInit.lo) 0x5E c.spInit.hi
    (zeroed.setAll (image.data.filter fun x => x.1 < c.dataSize)).setAll c.initWrites
  rom := Memory.setAll [] (image.program.filter fun x => x.1 < c.romWords)
  pc := 0
  cycles := 0
  instructions := 0
  asleep := false
  intPrio := 255
  intPending := 0
  ticks := 0
  outputs := []
  schedule := []
  draws := 0
  cfg := c

/-- R560 with nothing loaded. -/
def State.resetWith (c : Config) : State := State.construct c { program := [], data := [] }

/-- The machine right after reset, in the configuration of log entry 1. -/
def State.reset : State := State.resetWith Config.standard

end Sys2Proof.Machine
end

