-- ==== Sys2Proof/Machine/Ops.lean ====
section
/-! DEFINITION. The named operations every meaning is built from: access to registers, `SREG` and `SP`; the memory
dispatch (spec/20 R62 to R65); the return-address stack (spec/44 R301, R302); advancing (spec/40 R155, R156); taking an
interrupt and returning from one (spec/60 R506, spec/44 R312); the tick phase and service (spec/40 R157, R159). -/

namespace Sys2Proof.Machine

/-- The outcome of an operation: a value, the fatal fault, or a refusal. -/
abbrev Res (α : Type) := Host.Outcome α Fault Refusal

/-- Go on with the value of `r`; a fault or refusal ends the step there (R154). -/
def Res.bind {α β : Type} (r : Res α) (f : α → Res β) : Res β :=
  match r with
  | .next a => f a
  | .fault e => .fault e
  | .refused e => .refused e

/-! ### Direct access (R24): no dispatch, no veto, no bound check -/

/-- `DM[a]` (R11). -/
def State.byte (s : State) (a : Nat) : Byte := s.dm.get a

/-- `DM[a] <- v`. -/
def State.setByte (s : State) (a : Nat) (v : Byte) : State := { s with dm := s.dm.set a v }

/-- `R[d]`, the same storage as `DM[d]` (R21). -/
def State.reg (s : State) (d : Reg) : Byte := s.byte d.val

/-- `R[d] <- v`. -/
def State.setReg (s : State) (d : Reg) (v : Byte) : State := s.setByte d.val v

/-- The register pair whose low register is `d`: `{R[d+1], R[d]}` (R22). -/
def State.pair (s : State) (d : Reg) : Word := s.byte (d.val + 1) ++ s.byte d.val

/-- Write both halves of a register pair (R22). -/
def State.setPair (s : State) (d : Reg) (v : Word) : State :=
  (s.setByte d.val v.lo).setByte (d.val + 1) v.hi

/-- Data address of `SPL` (R30). -/
abbrev splAddr : Nat := 0x5D

/-- Data address of `SPH` (R30). -/
abbrev sphAddr : Nat := 0x5E

/-- Data address of `SREG` (R27). -/
abbrev sregAddr : Nat := 0x5F

/-- `SREG`, all eight bits (R27). -/
def State.sreg (s : State) : Byte := s.byte sregAddr

/-- `SREG` as named flags (R27). -/
def State.flags (s : State) : Flags := Flags.ofByte s.sreg

/-- Write all eight flags (R27). -/
def State.setFlags (s : State) (f : Flags) : State := s.setByte sregAddr f.toByte

/-- `SP = {SPH, SPL}` (R30). -/
def State.sp (s : State) : Word := s.byte sphAddr ++ s.byte splAddr

/-- `SP <- v` (R30). -/
def State.setSp (s : State) (v : Word) : State := (s.setByte splAddr v.lo).setByte sphAddr v.hi

/-- Emit an output event (R7). -/
def State.emit (s : State) (o : Output) : State := { s with outputs := o :: s.outputs }

/-- The environment supplies one free value (log entry 4). -/
def State.drawn (s : State) : State := { s with draws := s.draws + 1 }

/-- `pc <- target`, `cycles <- cycles + n`, `instructions <- instructions + 1` (R155, R156). -/
def State.retire (s : State) (target : Word) (n : Nat) : State :=
  { s with pc := target, cycles := s.cycles + n, instructions := s.instructions + 1 }

/-- "PC and cycles: next, n" of a one-word instruction (R13, R26). -/
def State.retireNext (s : State) (n : Nat) : State := s.retire (s.pc + 1) n

/-! ### The memory dispatch -/

/-- R64 `MemRead(a, 1)`: at a handled I/O address the chain is invoked and answers a free value (R69, U7); any other valid
address answers its stored byte. -/
def memRead (s : State) (a : Word) : Res (Byte × State) :=
  if s.cfg.dataSize ≤ a.toNat then .fault (.dataOutOfRange a)
  else if s.cfg.readChained a.toNat then .next (Config.freeByte s.draws, (s.emit (.ioRead a)).drawn)
  else .next (s.byte a.toNat, s)

/-- R70: the new content of the I/O bytes is an output of the environment: a free value in each that a binding owns (U8). -/
def State.freeIoBytes (s : State) : State :=
  { s with
    dm := s.dm.setAll (s.cfg.ownedBytes.mapIdx fun k a => (a, Config.freeByte (s.draws + k)))
    draws := s.draws + s.cfg.ownedBytes.length }

/-- R65, second to fourth arm: the write of a byte that no callout vetoed. At a handled I/O address the chain is invoked with
the address and the byte, the core stores nothing, and the I/O bytes hold what the handlers leave there (R70). -/
def storeByte (s : State) (a : Word) (v : Byte) : Res State :=
  if s.cfg.dataSize ≤ a.toNat then .fault (.dataOutOfRange a)
  else if s.cfg.writeChained a.toNat then
    .next (s.emit (.ioWrite a v)).freeIoBytes
  else .next (s.setByte a.toNat v)

/-- R65 `MemWrite(a, 1, v)`: the write is first offered to the callouts registered at the address (R72, D39); where they veto
it (U9) nothing is written and nothing faults. -/
def memWrite (s : State) (a : Word) (v : Byte) : Res State :=
  if s.cfg.callouts.contains a.toNat then
    let asked := (s.emit (.writeOffer a v)).drawn
    if Config.freeVeto s.draws then .next asked else storeByte asked a v
  else storeByte s a v

/-- R62 `PmRead(a)`. -/
def pmRead (s : State) (a : Word) : Res Word :=
  if s.cfg.romWords ≤ a.toNat then .fault (.programOutOfRange a) else .next (s.rom.get a.toNat)

/-! ### The return-address stack -/

/-- R301 `PushRet(ret)`: the low byte at `SP`, then the high byte at `SP - 1`, then `SP <- SP - 2`, all of the `SP` before
the push (D41). -/
def pushRet (s : State) (ret : Word) : Res State :=
  let sp := s.sp
  (memWrite s sp ret.lo).bind fun s1 =>
  (memWrite s1 (sp - 1) ret.hi).bind fun s2 =>
  .next (s2.setSp (sp - 2))

/-- R302 `PopRet()`: the high byte at `SP + 1`, the low byte at `SP + 2`, then `SP <- SP + 2`. -/
def popRet (s : State) : Res (Word × State) :=
  let sp := s.sp
  (memRead s (sp + 1)).bind fun (hi, s1) =>
  (memRead s1 (sp + 2)).bind fun (lo, s2) =>
  .next (hi ++ lo, s2.setSp (sp + 2))

/-! ### The interrupt controller -/

/-- The vector numbers, rising. -/
def vectors : List Nat := List.range 32

/-- R505 `Recompute(mask)`. -/
def recompute (how : Recompute) (mask : BitVec 32) : Byte :=
  let scan := match how with
    | .lowestFirst => vectors
    | .highestFirst => vectors.reverse
  match scan.find? fun v => mask.getLsbD v with
  | some v => BitVec.ofNat 8 v
  | none => 255

/-- `mask[v] <- 1`. -/
def setPending (mask : BitVec 32) (v : Nat) : BitVec 32 := mask ||| (1#32 <<< v)

/-- `mask[v] <- 0`. -/
def clearPending (mask : BitVec 32) (v : Nat) : BitVec 32 := mask &&& ~~~(1#32 <<< v)

/-- R503 `irq_raise(v)`. -/
def irqRaise (s : State) (v : BitVec 5) : State :=
  { s with
    intPending := setPending s.intPending v.toNat
    intPrio := if v.toNat < s.intPrio.toNat then v.setWidth 8 else s.intPrio }

/-- R504 `irq_clear(v)`, with `v` as wide as the priority register for the use of service. -/
def clearVector (s : State) (v : Byte) : State :=
  let mask := clearPending s.intPending v.toNat
  { s with intPending := mask, intPrio := recompute s.cfg.intRecompute mask }

/-- R504 `irq_clear(v)`. -/
def irqClear (s : State) (v : BitVec 5) : State := clearVector s (v.setWidth 8)

/-- One environment event of a tick phase (R157). -/
def applyEvent (s : State) : EnvEvent → State
  | .irqRaise v => irqRaise s v
  | .irqClear v => irqClear s v
  | .ioByte a v => if s.cfg.owned a then s.setByte a v else s

/-- R157: `n` pulses of `tick`, and the environment events the schedule gives for this step, in order. -/
def tickPhase (n : Nat) (s : State) : State :=
  let s' := { s with ticks := s.ticks + n, schedule := s.schedule.tail }
  (s.schedule.headD []).foldl applyEvent s'

/-- R506, from the push on: TAKING AN INTERRUPT. `pc` is saved on the stack, control goes to `2 * v` for the vector in the
priority register, I is cleared, `irq_ack` and `int_entry` are emitted, the request is cleared, the core is awake. -/
def takeInterrupt (s : State) : Res State :=
  let v := s.intPrio
  (pushRet s s.pc).bind fun s1 =>
  let s2 := { s1 with pc := BitVec.ofNat 16 (2 * v.toNat) }
  let s3 := s2.setFlags { s2.flags with i := false }
  let s4 := (s3.emit (.irqAck v)).emit (.intEntry v)
  .next { clearVector s4 v with asleep := false }

/-- R506 `service()`. -/
def service (s : State) : Res State :=
  if s.flags.i && s.intPending != 0 then takeInterrupt s else .next s

/-- R312: RETURNING FROM AN INTERRUPT. `pc <- PopRet(); SREG.I <- 1; emit int_exit`, 4 cycles. -/
def returnFromInterrupt (s : State) : Res State :=
  (popRet s).bind fun (ret, s1) =>
  .next (((s1.setFlags { s1.flags with i := true }).emit .intExit).retire ret 4)

/-! ### The parts of a step around execute -/

/-- R151, R153: the first word at `pc` and, for a two-word instruction, the second at `pc + 1` (zero for a one-word one). -/
def fetch (s : State) : Res (Word × Word) :=
  (pmRead s s.pc).bind fun w =>
  if wordSize w = 2 then (pmRead s (s.pc + 1)).bind fun w2 => .next (w, w2) else .next (w, 0)

/-- R158: the cycle of an asleep step. -/
def asleepCycle (s : State) : State := { s with cycles := s.cycles + 1 }

/-- R157, R159: the tick phase, one pulse for each cycle since the step began at `start` cycles, then service. -/
def finishStep (start : Nat) (s : State) : Res State := service (tickPhase (s.cycles - start) s)

end Sys2Proof.Machine
end

