-- ==== Sys2Proof/Machine/Operands.lean ====
section
/-! DEFINITION. Operand forms: pointer addressing (spec/45 R360 to R362), I/O addresses (spec/20 R74), relative targets
(spec/44 R300), program-memory bytes (spec/45 R400), and the one-instruction shapes over them. -/

namespace Sys2Proof.Machine

/-! ### Addresses -/

/-- The three pointers (R22). -/
inductive Pointer where
  | x
  | y
  | z
  deriving DecidableEq, Repr

/-- R22: the low register of a pointer; the next register is its high byte. -/
def Pointer.low : Pointer → Reg
  | .x => 26
  | .y => 28
  | .z => 30

/-- The addressing forms of R360. -/
inductive Form where
  | plain
  | postInc
  | preDec
  | disp (q : BitVec 6)
  deriving DecidableEq, Repr

/-- R360: the form writes the pointer. -/
def Form.updates : Form → Bool
  | .plain => false
  | .postInc => true
  | .preDec => true
  | .disp _ => false

/-- R360, R361: the effective address, modulo 2^16. -/
def effectiveAddress (s : State) (p : Pointer) : Form → Word
  | .plain => s.pair p.low
  | .postInc => s.pair p.low
  | .preDec => s.pair p.low - 1
  | .disp q => s.pair p.low + q.setWidth 16

/-- R360: the pointer update before the access at `a`: the pre-decrement form's. -/
def updateBefore (s : State) (p : Pointer) (a : Word) : Form → State
  | .preDec => s.setPair p.low a
  | .plain => s
  | .postInc => s
  | .disp _ => s

/-- R360: the pointer update after the access at `a`: the post-increment form's, from the captured address (D41). -/
def updateAfter (s : State) (p : Pointer) (a : Word) : Form → State
  | .postInc => s.setPair p.low (a + 1)
  | .plain => s
  | .preDec => s
  | .disp _ => s

/-- R362: the form writes the pointer and `d` is one of the pointer's two registers. -/
def overlaps (p : Pointer) (f : Form) (d : Reg) : Bool :=
  f.updates && (d.val == p.low.val || d.val == p.low.val + 1)

/-- R74: the data address of a 6-bit I/O address. -/
def ioAddr6 (a : BitVec 6) : Word := a.setWidth 16 + 32

/-- R74: the data address of a 5-bit I/O address. -/
def ioAddr5 (a : BitVec 5) : Word := a.setWidth 16 + 32

/-- R300: the target of a relative offset already extended to 16 bits. -/
def relTarget (s : State) (k : Word) : Word := s.pc + k + 1

/-! ### Instruction shapes -/

/-- An instruction of one cycle that writes a register and the flags. -/
def writeRegFlags (s : State) (d : Reg) (v : Byte) (f : Flags) : Res State :=
  .next (((s.setFlags f).setReg d v).retireNext 1)

/-- An instruction of one cycle that writes the flags only. -/
def writeFlags (s : State) (f : Flags) : Res State := .next ((s.setFlags f).retireNext 1)

/-- An instruction of one cycle that writes a register only. -/
def writeReg (s : State) (d : Reg) (v : Byte) : Res State := .next ((s.setReg d v).retireNext 1)

/-- R360, R370 to R380: an indirect load; the data register is written last. -/
def loadIndirect (s : State) (p : Pointer) (f : Form) (d : Reg) : Res State :=
  if overlaps p f d then .refused .pointerOverlap
  else
    let a := effectiveAddress s p f
    (memRead (updateBefore s p a f) a).bind fun (v, s1) =>
    .next (((updateAfter s1 p a f).setReg d v).retireNext 2)

/-- R360, R386 to R396: an indirect store. -/
def storeIndirect (s : State) (p : Pointer) (f : Form) (r : Reg) : Res State :=
  if overlaps p f r then .refused .pointerOverlap
  else
    let a := effectiveAddress s p f
    let s0 := updateBefore s p a f
    (memWrite s0 a (s0.reg r)).bind fun s1 =>
    .next ((updateAfter s1 p a f).retireNext 2)

/-- R400 `LpmByte(z)`: the word at `z >> 1`, its high byte when `z[0]` is 1. -/
def lpmByte (s : State) (z : Word) : Res Byte :=
  (pmRead s (z >>> 1)).bind fun w => .next (if z[0] then w.hi else w.lo)

/-- R400 to R406: a program-memory load of 3 cycles through Z, plain or post-increment. -/
def loadProgram (s : State) (f : Form) (d : Reg) : Res State :=
  if overlaps .z f d then .refused .pointerOverlap
  else
    let z := s.pair Pointer.z.low
    (lpmByte s z).bind fun v =>
    .next (((updateAfter s .z z f).setReg d v).retireNext 3)

/-- R420 to R423: read the byte at Z, write `f old` there, put the old byte in `R[d]`. -/
def exchangeZ (s : State) (d : Reg) (f : Byte → Byte → Byte) : Res State :=
  let a := s.pair Pointer.z.low
  (memRead s a).bind fun (old, s1) =>
  (memWrite s1 a (f old (s1.reg d))).bind fun s2 =>
  .next ((s2.setReg d old).retireNext 2)

/-- R280, R281: read an I/O byte, write it back changed. -/
def modifyIo (s : State) (a : BitVec 5) (f : Byte → Byte) : Res State :=
  (memRead s (ioAddr5 a)).bind fun (v, s1) =>
  (memWrite s1 (ioAddr5 a) (f v)).bind fun s2 =>
  .next (s2.retireNext 2)

/-- R330 `Skip(cond)`: the next opcode is read, only to size it, when the condition is true. -/
def skip (s : State) (cond : Bool) : Res State :=
  if cond then
    (pmRead s (s.pc + 1)).bind fun wn =>
    .next (s.retire (s.pc + 1 + BitVec.ofNat 16 (wordSize wn)) (1 + wordSize wn))
  else .next (s.retireNext 1)

/-- R340, R341: a conditional branch, 2 cycles when taken. -/
def branch (s : State) (cond : Bool) (k : BitVec 7) : Res State :=
  if cond then .next (s.retire (relTarget s (k.signExtend 16)) 2) else .next (s.retireNext 1)

/-- R240 `Mul(a, b, fractional)`: the operands already read as integers. -/
def multiply (s : State) (a b : Int) (fractional : Bool) : Res State :=
  let p := BitVec.ofInt 16 (a * b)
  let res := if fractional then p <<< 1 else p
  .next (((s.setFlags (mulFlags s.flags p res)).setPair 0 res).retireNext 2)

end Sys2Proof.Machine
end

