-- ==== Sys2Proof/Machine/Arith.lean ====
section
/-! DEFINITION. The meanings of the arithmetic, compare and logic instructions and their four aliases (spec/41). Both
operands are read before anything is written (R228); all arithmetic wraps (R227). -/

namespace Sys2Proof.Machine

/-- The carry flag as an 8-bit value, `zext_8(SREG.C)`. -/
def State.carry (s : State) : Byte := (BitVec.ofBool s.flags.c).setWidth 8

/-- `a + b` with the flags of R200, into `R[d]`. -/
def addInto (s : State) (d : Reg) (b carry : Byte) : Res State :=
  let a := s.reg d
  let res := a + b + carry
  writeRegFlags s d res (addFlags s.flags a b res)

/-- `a - b` with the flags of R201, into `R[d]`. -/
def subInto (s : State) (d : Reg) (b borrow : Byte) (sticky : Bool) : Res State :=
  let a := s.reg d
  let res := a - b - borrow
  writeRegFlags s d res (subFlags s.flags a b res sticky)

/-- `a - b` with the flags of R201 and no register written (R220, R221, R226). -/
def compare (s : State) (d : Reg) (b borrow : Byte) (sticky : Bool) : Res State :=
  let a := s.reg d
  writeFlags s (subFlags s.flags a b (a - b - borrow) sticky)

/-- A logic result with the flags of R202, into `R[d]`. -/
def logicInto (s : State) (d : Reg) (res : Byte) : Res State := writeRegFlags s d res (logicFlags s.flags res)

/-- R203 `ADD`. -/
def execAdd (d r : Reg) (s : State) : Res State := addInto s d (s.reg r) 0

/-- R204 `ADC`. -/
def execAdc (d r : Reg) (s : State) : Res State := addInto s d (s.reg r) s.carry

/-- R205 `ADIW`. -/
def execAdiw (d : Reg) (k : BitVec 6) (s : State) : Res State :=
  let a := s.pair d
  let res := a + k.setWidth 16
  .next (((s.setFlags (adiwFlags s.flags a res)).setPair d res).retireNext 2)

/-- R206 `SUB`. -/
def execSub (d r : Reg) (s : State) : Res State := subInto s d (s.reg r) 0 false

/-- R207 `SUBI`. -/
def execSubi (d : Reg) (k : Byte) (s : State) : Res State := subInto s d k 0 false

/-- R208 `SBC`. -/
def execSbc (d r : Reg) (s : State) : Res State := subInto s d (s.reg r) s.carry true

/-- R209 `SBCI`. -/
def execSbci (d : Reg) (k : Byte) (s : State) : Res State := subInto s d k s.carry true

/-- R210 `SBIW`. -/
def execSbiw (d : Reg) (k : BitVec 6) (s : State) : Res State :=
  let a := s.pair d
  let res := a - k.setWidth 16
  .next (((s.setFlags (sbiwFlags s.flags a res)).setPair d res).retireNext 2)

/-- R211 `AND`. -/
def execAnd (d r : Reg) (s : State) : Res State := logicInto s d (s.reg d &&& s.reg r)

/-- R212 `ANDI`. -/
def execAndi (d : Reg) (k : Byte) (s : State) : Res State := logicInto s d (s.reg d &&& k)

/-- R213 `OR`. -/
def execOr (d r : Reg) (s : State) : Res State := logicInto s d (s.reg d ||| s.reg r)

/-- R214 `ORI`. -/
def execOri (d : Reg) (k : Byte) (s : State) : Res State := logicInto s d (s.reg d ||| k)

/-- R215 `EOR`. -/
def execEor (d r : Reg) (s : State) : Res State := logicInto s d (s.reg d ^^^ s.reg r)

/-- R216 `COM`. -/
def execCom (d : Reg) (s : State) : Res State :=
  let res := 0xFF - s.reg d
  writeRegFlags s d res (comFlags s.flags res)

/-- R217 `NEG`. -/
def execNeg (d : Reg) (s : State) : Res State :=
  let a := s.reg d
  let res := 0 - a
  writeRegFlags s d res (negFlags s.flags a res)

/-- R218 `INC`. -/
def execInc (d : Reg) (s : State) : Res State :=
  let res := s.reg d + 1
  writeRegFlags s d res (stepFlags s.flags res 0x80)

/-- R219 `DEC`. -/
def execDec (d : Reg) (s : State) : Res State :=
  let res := s.reg d - 1
  writeRegFlags s d res (stepFlags s.flags res 0x7F)

/-- R220 `CP`. -/
def execCp (d r : Reg) (s : State) : Res State := compare s d (s.reg r) 0 false

/-- R221 `CPC`. -/
def execCpc (d r : Reg) (s : State) : Res State := compare s d (s.reg r) s.carry true

/-- R226 `CPI`. -/
def execCpi (d : Reg) (k : Byte) (s : State) : Res State := compare s d k 0 false

/-- R222 `TST Rd`, another name of `AND Rd,Rd`. -/
def execTst (d : Reg) (s : State) : Res State := execAnd d d s

/-- R223 `CLR Rd`, another name of `EOR Rd,Rd`. -/
def execClr (d : Reg) (s : State) : Res State := execEor d d s

/-- R224 `SBR Rd,K`, another name of `ORI Rd,K`. -/
def execSbr (d : Reg) (k : Byte) (s : State) : Res State := execOri d k s

/-- R225 `CBR Rd,K`, another name of `ANDI Rd,(0xFF - K)`. -/
def execCbr (d : Reg) (k : Byte) (s : State) : Res State := execAndi d (0xFF - k) s

end Sys2Proof.Machine
end

