-- ==== Sys2Proof/Machine/Branch.lean ====
section
/-! DEFINITION. The meanings of the jumps, calls, returns, skips and conditional branches and the eighteen branch aliases
(spec/44). The second word of `JMP` and `CALL` is read by the fetch (R153) and is `k[15:0]` here; the six high bits of
`k` do not reach the 16-bit `pc` (R121). -/

namespace Sys2Proof.Machine

/-- Push `ret`, then go to `target` (R301, R307, R308, R310). -/
def callTo (s : State) (ret target : Word) (n : Nat) : Res State :=
  (pushRet s ret).bind fun s1 => .next (s1.retire target n)

/-- R303 `RJMP`. -/
def execRjmp (k : BitVec 12) (s : State) : Res State := .next (s.retire (relTarget s (k.signExtend 16)) 2)

/-- R304 `IJMP`: to the word address in Z. -/
def execIjmp (s : State) : Res State := .next (s.retire (s.pair Pointer.z.low) 2)

/-- R305 `EIJMP`: recognised, a no-op of 1 cycle. -/
def execEijmp (s : State) : Res State := .next (s.retireNext 1)

/-- R306 `JMP`. -/
def execJmp (k : BitVec 22) (s : State) : Res State := .next (s.retire (k.setWidth 16) 3)

/-- R307 `RCALL`. -/
def execRcall (k : BitVec 12) (s : State) : Res State := callTo s (s.pc + 1) (relTarget s (k.signExtend 16)) 3

/-- R308 `ICALL`: the target is Z as it is once the return address is pushed. -/
def execIcall (s : State) : Res State :=
  (pushRet s (s.pc + 1)).bind fun s1 => .next (s1.retire (s1.pair Pointer.z.low) 3)

/-- R309 `EICALL`: recognised, a no-op of 1 cycle; nothing is pushed. -/
def execEicall (s : State) : Res State := .next (s.retireNext 1)

/-- R310 `CALL`: the return address is past both words. -/
def execCall (k : BitVec 22) (s : State) : Res State := callTo s (s.pc + 2) (k.setWidth 16) 4

/-- R311 `RET`. -/
def execRet (s : State) : Res State := (popRet s).bind fun (ret, s1) => .next (s1.retire ret 4)

/-- R312 `RETI`. -/
def execReti (s : State) : Res State := returnFromInterrupt s

/-- R331 `CPSE`. -/
def execCpse (d r : Reg) (s : State) : Res State := skip s (s.reg d == s.reg r)

/-- R332 `SBRC`. -/
def execSbrc (r : Reg) (b : Fin 8) (s : State) : Res State := skip s (!(s.reg r).getLsbD b.val)

/-- R333 `SBRS`. -/
def execSbrs (r : Reg) (b : Fin 8) (s : State) : Res State := skip s ((s.reg r).getLsbD b.val)

/-- R334 `SBIC`. -/
def execSbic (a : BitVec 5) (b : Fin 8) (s : State) : Res State :=
  (memRead s (ioAddr5 a)).bind fun (v, s1) => skip s1 (!v.getLsbD b.val)

/-- R335 `SBIS`. -/
def execSbis (a : BitVec 5) (b : Fin 8) (s : State) : Res State :=
  (memRead s (ioAddr5 a)).bind fun (v, s1) => skip s1 (v.getLsbD b.val)

/-- R340 `BRBS`. -/
def execBrbs (i : Fin 8) (k : BitVec 7) (s : State) : Res State := branch s (s.flags.get i) k

/-- R341 `BRBC`. -/
def execBrbc (i : Fin 8) (k : BitVec 7) (s : State) : Res State := branch s (!s.flags.get i) k

/-- R342 `BRCS k`, another name of `BRBS 0,k`. -/
def execBrcs (k : BitVec 7) (s : State) : Res State := execBrbs 0 k s

/-- R343 `BRLO k`, another name of `BRBS 0,k`. -/
def execBrlo (k : BitVec 7) (s : State) : Res State := execBrbs 0 k s

/-- R344 `BRCC k`, another name of `BRBC 0,k`. -/
def execBrcc (k : BitVec 7) (s : State) : Res State := execBrbc 0 k s

/-- R345 `BRSH k`, another name of `BRBC 0,k`. -/
def execBrsh (k : BitVec 7) (s : State) : Res State := execBrbc 0 k s

/-- R346 `BREQ k`, another name of `BRBS 1,k`. -/
def execBreq (k : BitVec 7) (s : State) : Res State := execBrbs 1 k s

/-- R347 `BRNE k`, another name of `BRBC 1,k`. -/
def execBrne (k : BitVec 7) (s : State) : Res State := execBrbc 1 k s

/-- R348 `BRMI k`, another name of `BRBS 2,k`. -/
def execBrmi (k : BitVec 7) (s : State) : Res State := execBrbs 2 k s

/-- R349 `BRPL k`, another name of `BRBC 2,k`. -/
def execBrpl (k : BitVec 7) (s : State) : Res State := execBrbc 2 k s

/-- R350 `BRVS k`, another name of `BRBS 3,k`. -/
def execBrvs (k : BitVec 7) (s : State) : Res State := execBrbs 3 k s

/-- R351 `BRVC k`, another name of `BRBC 3,k`. -/
def execBrvc (k : BitVec 7) (s : State) : Res State := execBrbc 3 k s

/-- R352 `BRLT k`, another name of `BRBS 4,k`. -/
def execBrlt (k : BitVec 7) (s : State) : Res State := execBrbs 4 k s

/-- R353 `BRGE k`, another name of `BRBC 4,k`. -/
def execBrge (k : BitVec 7) (s : State) : Res State := execBrbc 4 k s

/-- R354 `BRHS k`, another name of `BRBS 5,k`. -/
def execBrhs (k : BitVec 7) (s : State) : Res State := execBrbs 5 k s

/-- R355 `BRHC k`, another name of `BRBC 5,k`. -/
def execBrhc (k : BitVec 7) (s : State) : Res State := execBrbc 5 k s

/-- R356 `BRTS k`, another name of `BRBS 6,k`. -/
def execBrts (k : BitVec 7) (s : State) : Res State := execBrbs 6 k s

/-- R357 `BRTC k`, another name of `BRBC 6,k`. -/
def execBrtc (k : BitVec 7) (s : State) : Res State := execBrbc 6 k s

/-- R358 `BRIE k`, another name of `BRBS 7,k`. -/
def execBrie (k : BitVec 7) (s : State) : Res State := execBrbs 7 k s

/-- R359 `BRID k`, another name of `BRBC 7,k`. -/
def execBrid (k : BitVec 7) (s : State) : Res State := execBrbc 7 k s

end Sys2Proof.Machine
end

