-- ==== Sys2Proof/Machine/Control.lean ====
section
/-! DEFINITION. The meanings of the control instructions and the no-ops, and of the unrecognised opcode (spec/46). -/

namespace Sys2Proof.Machine

/-- A one-word no-op of 1 cycle (R130). -/
def noOperation (s : State) : Res State := .next (s.retireNext 1)

/-- R430 `NOP`. -/
def execNop (s : State) : Res State := noOperation s

/-- R432 `SLEEP`: `asleep <- 1`. -/
def execSleep (s : State) : Res State := .next ({ s with asleep := true }.retireNext 1)

/-- R433 `WDR`: pulses the output `wdr`; no core state changes (D17). -/
def execWdr (s : State) : Res State := .next ((s.emit .wdr).retireNext 1)

/-- R434 `BREAK`: pulses the output `brk`; no core state changes (D17). -/
def execBreak (s : State) : Res State := .next ((s.emit .brk).retireNext 1)

/-- R435 `DES K`: recognised, a no-op; `K` is decoded and unused (R122). -/
def execDes (_k : BitVec 4) (s : State) : Res State := noOperation s

/-- R436 `SPM`: recognised, a no-op; program memory is never written. -/
def execSpm (s : State) : Res State := noOperation s

/-- R437 `SPM Z+`: recognised, a no-op; Z is not incremented. -/
def execSpmZInc (s : State) : Res State := noOperation s

/-- R440: the unrecognised opcode, a no-op of size 1. -/
def execUnrecognised (s : State) : Res State := noOperation s

end Sys2Proof.Machine
end

