-- ==== Sys2Proof/Machine/Multiply.lean ====
section
/-! DEFINITION. The meanings of the multiplies (spec/42): 2 cycles, C and Z written, the product in R1:R0. -/

namespace Sys2Proof.Machine

/-- R241 `MUL`: unsigned by unsigned. -/
def execMul (d r : Reg) (s : State) : Res State := multiply s (s.reg d).toNat (s.reg r).toNat false

/-- R242 `MULS`: signed by signed. -/
def execMuls (d r : Reg) (s : State) : Res State := multiply s (s.reg d).toInt (s.reg r).toInt false

/-- R243 `MULSU`: signed by unsigned. -/
def execMulsu (d r : Reg) (s : State) : Res State := multiply s (s.reg d).toInt (s.reg r).toNat false

/-- R244 `FMUL`: unsigned by unsigned, fractional. -/
def execFmul (d r : Reg) (s : State) : Res State := multiply s (s.reg d).toNat (s.reg r).toNat true

/-- R245 `FMULS`: signed by signed, fractional. -/
def execFmuls (d r : Reg) (s : State) : Res State := multiply s (s.reg d).toInt (s.reg r).toInt true

/-- R246 `FMULSU`: signed by unsigned, fractional. -/
def execFmulsu (d r : Reg) (s : State) : Res State := multiply s (s.reg d).toInt (s.reg r).toNat true

end Sys2Proof.Machine
end

