-- ==== Sys2Proof/Machine/ShiftBit.lean ====
section
/-! DEFINITION. The meanings of the shift, rotate, swap, flag and bit instructions and their eighteen aliases (spec/43). -/

namespace Sys2Proof.Machine

/-- A right shift of `a` into `R[d]` with the flags of R258. -/
def shiftInto (s : State) (d : Reg) (a res : Byte) : Res State :=
  writeRegFlags s d res (shiftRightFlags s.flags a res)

/-- R250 `LSL Rd`, another name of `ADD Rd,Rd`. -/
def execLsl (d : Reg) (s : State) : Res State := execAdd d d s

/-- R251 `ROL Rd`, another name of `ADC Rd,Rd`. -/
def execRol (d : Reg) (s : State) : Res State := execAdc d d s

/-- R252 `LSR`: a zero enters bit 7. -/
def execLsr (d : Reg) (s : State) : Res State :=
  let a := s.reg d
  shiftInto s d a (BitVec.ofBool false ++ a.extractLsb' 1 7)

/-- R253 `ROR`: the old carry enters bit 7. -/
def execRor (d : Reg) (s : State) : Res State :=
  let a := s.reg d
  shiftInto s d a (BitVec.ofBool s.flags.c ++ a.extractLsb' 1 7)

/-- R254 `ASR`: bit 7 is kept. -/
def execAsr (d : Reg) (s : State) : Res State :=
  let a := s.reg d
  shiftInto s d a (BitVec.ofBool a[7] ++ a.extractLsb' 1 7)

/-- R255 `SWAP`: the nibbles change places; no flag is written. -/
def execSwap (d : Reg) (s : State) : Res State :=
  let a := s.reg d
  writeReg s d (a.extractLsb' 0 4 ++ a.extractLsb' 4 4)

/-- R260 `BSET`. -/
def execBset (i : Fin 8) (s : State) : Res State := writeFlags s (s.flags.put i true)

/-- R261 `BCLR`. -/
def execBclr (i : Fin 8) (s : State) : Res State := writeFlags s (s.flags.put i false)

/-- R262 `SEC`, another name of `BSET 0`. -/
def execSec (s : State) : Res State := execBset 0 s

/-- R263 `SEZ`, another name of `BSET 1`. -/
def execSez (s : State) : Res State := execBset 1 s

/-- R264 `SEN`, another name of `BSET 2`. -/
def execSen (s : State) : Res State := execBset 2 s

/-- R265 `SEV`, another name of `BSET 3`. -/
def execSev (s : State) : Res State := execBset 3 s

/-- R266 `SES`, another name of `BSET 4`. -/
def execSes (s : State) : Res State := execBset 4 s

/-- R267 `SEH`, another name of `BSET 5`. -/
def execSeh (s : State) : Res State := execBset 5 s

/-- R268 `SET`, another name of `BSET 6`. -/
def execSet (s : State) : Res State := execBset 6 s

/-- R269 `SEI`, another name of `BSET 7`. -/
def execSei (s : State) : Res State := execBset 7 s

/-- R270 `CLC`, another name of `BCLR 0`. -/
def execClc (s : State) : Res State := execBclr 0 s

/-- R271 `CLZ`, another name of `BCLR 1`. -/
def execClz (s : State) : Res State := execBclr 1 s

/-- R272 `CLN`, another name of `BCLR 2`. -/
def execCln (s : State) : Res State := execBclr 2 s

/-- R273 `CLV`, another name of `BCLR 3`. -/
def execClv (s : State) : Res State := execBclr 3 s

/-- R274 `CLS`, another name of `BCLR 4`. -/
def execCls (s : State) : Res State := execBclr 4 s

/-- R275 `CLH`, another name of `BCLR 5`. -/
def execClh (s : State) : Res State := execBclr 5 s

/-- R276 `CLT`, another name of `BCLR 6`. -/
def execClt (s : State) : Res State := execBclr 6 s

/-- R277 `CLI`, another name of `BCLR 7`. -/
def execCli (s : State) : Res State := execBclr 7 s

/-- R278 `BST`: `SREG.T <- R[d][b]`. -/
def execBst (d : Reg) (b : Fin 8) (s : State) : Res State :=
  writeFlags s { s.flags with t := (s.reg d).getLsbD b.val }

/-- `v` with bit `b` set. -/
def setBit (v : Byte) (b : Fin 8) : Byte := v ||| (1#8 <<< b.val)

/-- `v` with bit `b` cleared. -/
def clearBit (v : Byte) (b : Fin 8) : Byte := v &&& ~~~(1#8 <<< b.val)

/-- R279 `BLD`: `R[d][b] <- SREG.T`, the other seven bits unchanged. -/
def execBld (d : Reg) (b : Fin 8) (s : State) : Res State :=
  writeReg s d (if s.flags.t then setBit (s.reg d) b else clearBit (s.reg d) b)

/-- R280 `SBI`. -/
def execSbi (a : BitVec 5) (b : Fin 8) (s : State) : Res State := modifyIo s a fun v => setBit v b

/-- R281 `CBI`. -/
def execCbi (a : BitVec 5) (b : Fin 8) (s : State) : Res State := modifyIo s a fun v => clearBit v b

end Sys2Proof.Machine
end

