-- ==== Sys2Proof/Machine/Transfer.lean ====
section
/-! DEFINITION. The meanings of the data transfers and their aliases (spec/45). No instruction here writes a flag; a store
to data address 0x5F replaces `SREG` as data (R27). The second word of `LDS` and `STS` is read by the fetch (R153). -/

namespace Sys2Proof.Machine

/-- R363 `MOV`. -/
def execMov (d r : Reg) (s : State) : Res State := writeReg s d (s.reg r)

/-- R364 `MOVW`: both source bytes are read before either is written. -/
def execMovw (d r : Reg) (s : State) : Res State := .next ((s.setPair d (s.pair r)).retireNext 1)

/-- R365 `LDI`. -/
def execLdi (d : Reg) (k : Byte) (s : State) : Res State := writeReg s d k

/-- R366 `SER Rd`, another name of `LDI Rd,0xFF`. -/
def execSer (d : Reg) (s : State) : Res State := execLdi d 0xFF s

/-- R367 `LDS`. -/
def execLds (d : Reg) (k : Word) (s : State) : Res State :=
  (memRead s k).bind fun (v, s1) => .next ((s1.setReg d v).retire (s.pc + 2) 2)

/-- R368 `STS`. -/
def execSts (k : Word) (r : Reg) (s : State) : Res State :=
  (memWrite s k (s.reg r)).bind fun s1 => .next (s1.retire (s.pc + 2) 2)

/-- R370 `LD Rd,X`. -/
def execLdX (d : Reg) (s : State) : Res State := loadIndirect s .x .plain d

/-- R371 `LD Rd,X+`. -/
def execLdXInc (d : Reg) (s : State) : Res State := loadIndirect s .x .postInc d

/-- R372 `LD Rd,-X`. -/
def execLdXDec (d : Reg) (s : State) : Res State := loadIndirect s .x .preDec d

/-- R374 `LD Rd,Y+`. -/
def execLdYInc (d : Reg) (s : State) : Res State := loadIndirect s .y .postInc d

/-- R375 `LD Rd,-Y`. -/
def execLdYDec (d : Reg) (s : State) : Res State := loadIndirect s .y .preDec d

/-- R376 `LDD Rd,Y+q`. -/
def execLddY (d : Reg) (q : BitVec 6) (s : State) : Res State := loadIndirect s .y (.disp q) d

/-- R376 `LD Rd,Y`, another name of `LDD Rd,Y+0`. -/
def execLdY (d : Reg) (s : State) : Res State := execLddY d 0 s

/-- R378 `LD Rd,Z+`. -/
def execLdZInc (d : Reg) (s : State) : Res State := loadIndirect s .z .postInc d

/-- R379 `LD Rd,-Z`. -/
def execLdZDec (d : Reg) (s : State) : Res State := loadIndirect s .z .preDec d

/-- R380 `LDD Rd,Z+q`. -/
def execLddZ (d : Reg) (q : BitVec 6) (s : State) : Res State := loadIndirect s .z (.disp q) d

/-- R380 `LD Rd,Z`, another name of `LDD Rd,Z+0`. -/
def execLdZ (d : Reg) (s : State) : Res State := execLddZ d 0 s

/-- R386 `ST X,Rr`. -/
def execStX (r : Reg) (s : State) : Res State := storeIndirect s .x .plain r

/-- R387 `ST X+,Rr`. -/
def execStXInc (r : Reg) (s : State) : Res State := storeIndirect s .x .postInc r

/-- R388 `ST -X,Rr`. -/
def execStXDec (r : Reg) (s : State) : Res State := storeIndirect s .x .preDec r

/-- R390 `ST Y+,Rr`. -/
def execStYInc (r : Reg) (s : State) : Res State := storeIndirect s .y .postInc r

/-- R391 `ST -Y,Rr`. -/
def execStYDec (r : Reg) (s : State) : Res State := storeIndirect s .y .preDec r

/-- R392 `STD Y+q,Rr`. -/
def execStdY (q : BitVec 6) (r : Reg) (s : State) : Res State := storeIndirect s .y (.disp q) r

/-- R392 `ST Y,Rr`, another name of `STD Y+0,Rr`. -/
def execStY (r : Reg) (s : State) : Res State := execStdY 0 r s

/-- R394 `ST Z+,Rr`. -/
def execStZInc (r : Reg) (s : State) : Res State := storeIndirect s .z .postInc r

/-- R395 `ST -Z,Rr`. -/
def execStZDec (r : Reg) (s : State) : Res State := storeIndirect s .z .preDec r

/-- R396 `STD Z+q,Rr`. -/
def execStdZ (q : BitVec 6) (r : Reg) (s : State) : Res State := storeIndirect s .z (.disp q) r

/-- R396 `ST Z,Rr`, another name of `STD Z+0,Rr`. -/
def execStZ (r : Reg) (s : State) : Res State := execStdZ 0 r s

/-- R401 `LPM`. -/
def execLpm (s : State) : Res State := loadProgram s .plain 0

/-- R402 `LPM Rd,Z`. -/
def execLpmZ (d : Reg) (s : State) : Res State := loadProgram s .plain d

/-- R403 `LPM Rd,Z+`. -/
def execLpmZInc (d : Reg) (s : State) : Res State := loadProgram s .postInc d

/-- R404, R408 `ELPM`. -/
def execElpm (s : State) : Res State := loadProgram s .plain 0

/-- R405, R408 `ELPM Rd,Z`. -/
def execElpmZ (d : Reg) (s : State) : Res State := loadProgram s .plain d

/-- R406, R408 `ELPM Rd,Z+`. -/
def execElpmZInc (d : Reg) (s : State) : Res State := loadProgram s .postInc d

/-- R410 `IN`. -/
def execIn (d : Reg) (a : BitVec 6) (s : State) : Res State :=
  (memRead s (ioAddr6 a)).bind fun (v, s1) => .next ((s1.setReg d v).retireNext 1)

/-- R411 `OUT`. -/
def execOut (a : BitVec 6) (r : Reg) (s : State) : Res State :=
  (memWrite s (ioAddr6 a) (s.reg r)).bind fun s1 => .next (s1.retireNext 1)

/-- R412 `PUSH`: the byte at `SP`, then `SP <- SP - 1` of the `SP` before the write (D41). -/
def execPush (r : Reg) (s : State) : Res State :=
  let a := s.sp
  (memWrite s a (s.reg r)).bind fun s1 => .next ((s1.setSp (a - 1)).retireNext 2)

/-- R413 `POP`: `SP <- SP + 1`, then the byte at the new `SP`. -/
def execPop (d : Reg) (s : State) : Res State :=
  let a := s.sp + 1
  (memRead (s.setSp a) a).bind fun (v, s1) => .next ((s1.setReg d v).retireNext 2)

/-- R420 `XCH Z,Rd`. -/
def execXch (d : Reg) (s : State) : Res State := exchangeZ s d fun _ reg => reg

/-- R421 `LAS Z,Rd`. -/
def execLas (d : Reg) (s : State) : Res State := exchangeZ s d fun old reg => old ||| reg

/-- R422 `LAC Z,Rd`. -/
def execLac (d : Reg) (s : State) : Res State := exchangeZ s d fun old reg => old &&& ~~~reg

/-- R423 `LAT Z,Rd`. -/
def execLat (d : Reg) (s : State) : Res State := exchangeZ s d fun old reg => old ^^^ reg

end Sys2Proof.Machine
end

