-- ==== Sys2Proof/Machine/Step.lean ====
section
/-! DEFINITION. One step of the core (spec/40 R150) and the placing of an instruction where the step fetches next. -/

namespace Sys2Proof.Machine

/-- R150, phases 1 to 6 of an awake step: fetch, classify and decode, execute; an unrecognised first word is the no-op of R440. -/
def runInstruction (s : State) : Res State :=
  (fetch s).bind fun (w, w2) =>
  match decodeWords s.cfg.hasRmw w w2 with
  | some i => exec i s
  | none => execUnrecognised s

/-- R150: one step. Awake, the instruction at `pc`; asleep, one cycle (R158). Then the tick phase and service (R157, R159). -/
def step (s : State) : Host.Outcome State Fault Refusal :=
  Res.bind (if s.asleep then .next (asleepCycle s) else runInstruction s) (finishStep s.cycles)

/-- `s` with a table row's words loaded at `pc` and `pc + 1` (R563), awake, and with `HAS_RMW` where the row needs it, so
that the next step runs that instruction (log entry 6). -/
def State.withFetchWord (s : State) (nbits w : Nat) : State :=
  let w1 := tableWord1 nbits w
  { s with
    rom := (s.rom.set s.pc.toNat w1).set (s.pc + 1).toNat (tableWord2 nbits w)
    asleep := false
    cfg := if isRmwWord w1 then { s.cfg with hasRmw := true } else s.cfg }

end Sys2Proof.Machine
end

