-- ==== Sys2Proof/Safety.lean ====
section
/-! DEFINITION. The terms claims are stated in: the invariant of the machine, what a completed instruction leaves, and what
counts as a safe run. -/

namespace Sys2Proof.Machine

/-! ### The invariant -/

/-- Both memories are in canonical form. -/
abbrev State.Canonical (s : State) : Prop := s.dm.wf = true ∧ s.rom.wf = true

/-- R60, R61: nothing is stored outside the data space or outside program memory. -/
abbrev State.InBounds (s : State) : Prop :=
  s.dm.below s.cfg.dataSize = true ∧ s.rom.below s.cfg.romWords = true

/-- R502, R37 in the strength that holds under both settings of `INT_RECOMPUTE`: Idle, or Pending with the bit of the
priority register set. -/
abbrev State.ControllerLegal (s : State) : Prop :=
  (s.intPending = 0 ∧ s.intPrio = 255) ∨
    (s.intPending ≠ 0 ∧ s.intPrio.toNat < 32 ∧ s.intPending.getLsbD s.intPrio.toNat = true)

/-- R37 under `LowestFirst`: the priority register is the lowest pending vector, or 255. -/
abbrev State.PrioIsLowest (s : State) : Prop :=
  s.cfg.intRecompute = .lowestFirst → s.intPrio = recompute .lowestFirst s.intPending

/-- R582: as many ticks as cycles. -/
abbrev State.TicksAreCycles (s : State) : Prop := s.ticks = s.cycles

/-- The invariant every step keeps. -/
abbrev State.Inv (s : State) : Prop :=
  s.cfg.Legal ∧ s.Canonical ∧ s.InBounds ∧ s.ControllerLegal ∧ s.PrioIsLowest ∧ s.TicksAreCycles

/-! ### What an instruction leaves -/

/-- `view` with the byte at `a` replaced by `v`: one assignment of an instruction's pseudocode. -/
def assign (view : Nat → Byte) (a : Nat) (v : Byte) : Nat → Byte := fun b => if b = a then v else view b

/-- `view` with the register pair at `d` replaced by `v`. -/
def assignPair (view : Nat → Byte) (d : Nat) (v : Word) : Nat → Byte := assign (assign view d v.lo) (d + 1) v.hi

/-- The instruction completes: the next state differs from `s` in the data space, `pc`, `cycles` and `instructions` only;
the data space is `view`, byte for byte. -/
def Finishes (i : Instr) (s : State) (target : Word) (n : Nat) (view : Nat → Byte) : Prop :=
  ∃ m : Memory 8,
    exec i s = .next { s with dm := m, pc := target, cycles := s.cycles + n, instructions := s.instructions + 1 } ∧
      ∀ a, m.get a = view a

/-- R73 at one address: no handler chain and no write callout is registered there. -/
abbrev State.PlainAt (s : State) (a : Word) : Prop :=
  s.cfg.readChained a.toNat = false ∧ s.cfg.writeChained a.toNat = false ∧ s.cfg.callouts.contains a.toNat = false

/-- The address is in the data space and plain storage. -/
abbrev State.Reaches (s : State) (a : Word) : Prop := a.toNat < s.cfg.dataSize ∧ s.PlainAt a

/-- What no data access reaches is as before. The data space, `pc`, the two counters, the outputs and the count of free
values are stated apart. -/
abbrev SameControl (s t : State) : Prop :=
  t.rom = s.rom ∧ t.asleep = s.asleep ∧ t.intPrio = s.intPrio ∧ t.intPending = s.intPending ∧ t.ticks = s.ticks ∧
    t.schedule = s.schedule ∧ t.cfg = s.cfg

/-! ### Safe runs -/

/-- The machine takes `n` steps from `s` without a fault or a refusal. -/
def SafeFor (n : Nat) (s : State) : Prop := ∃ t : State, Host.Core.run core n s = .next t

end Sys2Proof.Machine
end

