-- ==== Sys2Proof/Certificates/Slice0/Obligations.lean ====
section
/-! DEFINITION. The statements for the provers. An instruction's result is stated with its frame: `Finishes` says that it
answers a next state, which bytes of the data space it changes, and that nothing else but `pc` and the two counters
changes. Every byte of the data space is covered, so registers, `SREG`, `SP`, I/O space and RAM are all in the frame.
Premises are the canonical form of the data space (kept by every step: `StepKeepsInvariant`), the legal ranges of R8, and
that an address is in range and plain storage. -/

namespace Sys2Proof.Machine

/-! ## Vocabulary of the statements -/

/-- The flags of `a + b + carry` by wider arithmetic: R200's "equivalently". T and I are unchanged. -/
def sumFlags (f : Flags) (a b : Byte) (carry : Bool) : Flags :=
  let u := a.toNat + b.toNat + carry.toNat
  let signed := a.toInt + b.toInt + carry.toNat
  let n := decide (128 ≤ u % 256)
  let v := decide (signed < -128 ∨ 127 < signed)
  { f with
    c := decide (256 ≤ u)
    h := decide (16 ≤ a.toNat % 16 + b.toNat % 16 + carry.toNat)
    v := v
    n := n
    z := decide (u % 256 = 0)
    s := n ^^ v }

/-- The flags of `a - b - borrow` by wider arithmetic: R201's "equivalently". T and I are unchanged. -/
def differenceFlags (f : Flags) (a b : Byte) (borrow sticky : Bool) : Flags :=
  let u := (a.toNat + 512 - b.toNat - borrow.toNat) % 256
  let signed := a.toInt - b.toInt - borrow.toNat
  let n := decide (128 ≤ u)
  let v := decide (signed < -128 ∨ 127 < signed)
  { f with
    c := decide (a.toNat < b.toNat + borrow.toNat)
    h := decide (a.toNat % 16 < b.toNat % 16 + borrow.toNat)
    v := v
    n := n
    z := decide (u = 0) && (!sticky || f.z)
    s := n ^^ v }

/-- N, Z of an 8-bit result and S = N ^ V, with the V given. -/
def resultFlags (f : Flags) (r : Byte) (v : Bool) : Flags :=
  { f with n := decide (128 ≤ r.toNat), z := decide (r.toNat = 0), v := v, s := decide (128 ≤ r.toNat) ^^ v }

/-- N, Z of a 16-bit result and S = N ^ V, with the V given. -/
def resultFlags16 (f : Flags) (r : Word) (v : Bool) : Flags :=
  { f with n := decide (32768 ≤ r.toNat), z := decide (r.toNat = 0), v := v, s := decide (32768 ≤ r.toNat) ^^ v }

/-- A one-word instruction of one cycle that writes `SREG` and `R[d]` and nothing else. -/
def WritesRegAndFlags (i : Instr) (s : State) (d : Reg) (v : Byte) (f : Flags) : Prop :=
  Finishes i s (s.pc + 1) 1 (assign (assign s.byte sregAddr f.toByte) d.val v)

/-- A one-word instruction of one cycle that writes `SREG` and nothing else. -/
def WritesSreg (i : Instr) (s : State) (v : Byte) : Prop :=
  Finishes i s (s.pc + 1) 1 (assign s.byte sregAddr v)

/-- A one-word instruction of one cycle that writes `R[d]` and nothing else. -/
def WritesReg (i : Instr) (s : State) (d : Reg) (v : Byte) : Prop :=
  Finishes i s (s.pc + 1) 1 (assign s.byte d.val v)

/-- `R[d] <- a + b + carry` with its flags. -/
def AddsInto (i : Instr) (s : State) (d : Reg) (b : Byte) (carry : Bool) : Prop :=
  WritesRegAndFlags i s d (BitVec.ofNat 8 ((s.reg d).toNat + b.toNat + carry.toNat)) (sumFlags s.flags (s.reg d) b carry)

/-- `R[d] <- a - b - borrow` with its flags. -/
def SubtractsInto (i : Instr) (s : State) (d : Reg) (b : Byte) (borrow sticky : Bool) : Prop :=
  WritesRegAndFlags i s d (BitVec.ofNat 8 ((s.reg d).toNat + 512 - b.toNat - borrow.toNat))
    (differenceFlags s.flags (s.reg d) b borrow sticky)

/-- The flags of `a - b - borrow`, and no register written. -/
def Compares (i : Instr) (s : State) (d : Reg) (b : Byte) (borrow sticky : Bool) : Prop :=
  WritesSreg i s (differenceFlags s.flags (s.reg d) b borrow sticky).toByte

/-- A logic result: V cleared, S = N; C, H, T, I unchanged. -/
def LogicInto (i : Instr) (s : State) (d : Reg) (res : Byte) : Prop :=
  WritesRegAndFlags i s d res (resultFlags s.flags res false)

/-- A right shift: C is the bit shifted out, V = N ^ C; H, T, I unchanged. -/
def ShiftsInto (i : Instr) (s : State) (d : Reg) (res : Byte) : Prop :=
  let out := decide ((s.reg d).toNat % 2 = 1)
  WritesRegAndFlags i s d res { resultFlags s.flags res (decide (128 ≤ res.toNat) ^^ out) with c := out }

/-- A left shift of `R[d]` with `low` entering: C is bit 7, H is bit 3 of the old value, V = N ^ C. -/
def ShiftsLeftInto (i : Instr) (s : State) (d : Reg) (low : Bool) : Prop :=
  let a := s.reg d
  let res := BitVec.ofNat 8 (2 * a.toNat + low.toNat)
  let out := decide (128 ≤ a.toNat)
  WritesRegAndFlags i s d res
    { resultFlags s.flags res (decide (128 ≤ res.toNat) ^^ out) with c := out, h := a.getLsbD 3 }

/-- The product `p` of a multiply: stored in R1:R0, shifted left by one when fractional; C is bit 15 of `p`, Z is whether
the product is zero. -/
def Multiplies (i : Instr) (s : State) (p : Word) (fractional : Bool) : Prop :=
  Finishes i s (s.pc + 1) 2
    (assignPair (assign s.byte sregAddr { s.flags with c := decide (32768 ≤ p.toNat), z := decide (p.toNat = 0) }.toByte)
      0 (if fractional then BitVec.ofNat 16 (2 * p.toNat) else p))

/-- `SREG[k]` set or cleared, the other seven bits unchanged. -/
def PutsFlag (i : Instr) (s : State) (k : Nat) (on : Bool) : Prop :=
  WritesSreg i s (if on then s.sreg ||| BitVec.ofNat 8 (2 ^ k) else s.sreg &&& BitVec.ofNat 8 (255 - 2 ^ k))

/-- No byte of the data space changes; `pc` and the cycles as given. -/
def OnlyMoves (i : Instr) (s : State) (target : Word) (n : Nat) : Prop := Finishes i s target n s.byte

/-- A conditional branch: to `pc + k + 1` in 2 cycles, or on in 1. -/
def Branches (i : Instr) (s : State) (cond : Bool) (k : BitVec 7) : Prop :=
  if cond then OnlyMoves i s (BitVec.ofInt 16 (s.pc.toNat + k.toInt + 1)) 2 else OnlyMoves i s (s.pc + 1) 1

/-- A skip: when the condition holds, past the next instruction, in 1 cycle and one more for each word skipped, or the
fault of reading the next opcode; when it does not, on in 1 cycle. -/
def Skips (i : Instr) (s : State) (cond : Bool) : Prop :=
  let size := wordSize (s.rom.get (s.pc + 1).toNat)
  (cond = false → OnlyMoves i s (s.pc + 1) 1) ∧
    (cond = true → (s.pc + 1).toNat < s.cfg.romWords →
      OnlyMoves i s (s.pc + 1 + BitVec.ofNat 16 size) (1 + size)) ∧
    (cond = true → s.cfg.romWords ≤ (s.pc + 1).toNat → exec i s = .fault (.programOutOfRange (s.pc + 1)))

/-- The data space after the pushes of R301: the low byte at `SP`, the high byte at `SP - 1`, `SP` lowered by 2. -/
def pushedView (s : State) (ret : Word) : Nat → Byte :=
  assignPair (assign (assign s.byte s.sp.toNat ret.lo) (s.sp - 1).toNat ret.hi) splAddr (s.sp - 2)

/-- The data space after the pops of R302: `SP` raised by 2. -/
def poppedView (s : State) : Nat → Byte := assignPair s.byte splAddr (s.sp + 2)

/-- The address popped by R302: the high byte at `SP + 1`, the low byte at `SP + 2`. -/
def poppedAddress (s : State) : Word := s.byte (s.sp + 1).toNat ++ s.byte (s.sp + 2).toNat

/-- A load that first leaves the data space as `before`, reads there at `a`, then leaves it as `after`, and writes `R[d]`
last; or the fault of the read. -/
def LoadsFrom (i : Instr) (s : State) (d : Reg) (a : Word) (before after : Nat → Byte) : Prop :=
  (a.toNat < s.cfg.dataSize → s.cfg.readChained a.toNat = false →
    Finishes i s (s.pc + 1) 2 (assign after d.val (before a.toNat))) ∧
  (s.cfg.dataSize ≤ a.toNat → exec i s = .fault (.dataOutOfRange a))

/-- A store at `a` after which the data space is `after`; or the fault of the write. -/
def StoresTo (i : Instr) (s : State) (a : Word) (after : Nat → Byte) : Prop :=
  (s.Reaches a → Finishes i s (s.pc + 1) 2 after) ∧
  (s.cfg.dataSize ≤ a.toNat → s.cfg.callouts.contains a.toNat = false → exec i s = .fault (.dataOutOfRange a))

/-- A program-memory load through Z, with the pointer left as `after`. -/
def LoadsProgramByte (i : Instr) (s : State) (d : Reg) (after : Nat → Byte) : Prop :=
  let z := s.pair 30
  let w : Word := s.rom.get (z.toNat / 2)
  (z.toNat / 2 < s.cfg.romWords →
    Finishes i s (s.pc + 1) 3 (assign after d.val (if z.toNat % 2 = 1 then w.hi else w.lo))) ∧
  (s.cfg.romWords ≤ z.toNat / 2 → exec i s = .fault (.programOutOfRange (BitVec.ofNat 16 (z.toNat / 2))))

/-- A read-modify-write through Z. -/
def ExchangesAtZ (i : Instr) (s : State) (d : Reg) (stored : Byte) : Prop :=
  let a := s.pair 30
  (s.Reaches a →
    Finishes i s (s.pc + 1) 2 (assign (assign s.byte a.toNat stored) d.val (s.byte a.toNat))) ∧
  (s.cfg.dataSize ≤ a.toNat → exec i s = .fault (.dataOutOfRange a))

/-- The indirect load forms: the instruction's pointer, form and data register. -/
def loadForm : Instr → Option (Pointer × Form × Reg)
  | .ldX d => some (.x, .plain, d)
  | .ldXInc d => some (.x, .postInc, d)
  | .ldXDec d => some (.x, .preDec, d)
  | .ldY d => some (.y, .disp 0, d)
  | .ldYInc d => some (.y, .postInc, d)
  | .ldYDec d => some (.y, .preDec, d)
  | .lddY d q => some (.y, .disp q, d)
  | .ldZ d => some (.z, .disp 0, d)
  | .ldZInc d => some (.z, .postInc, d)
  | .ldZDec d => some (.z, .preDec, d)
  | .lddZ d q => some (.z, .disp q, d)
  | _ => none

/-- The indirect store forms: the instruction's pointer, form and data register. -/
def storeForm : Instr → Option (Pointer × Form × Reg)
  | .stX r => some (.x, .plain, r)
  | .stXInc r => some (.x, .postInc, r)
  | .stXDec r => some (.x, .preDec, r)
  | .stY r => some (.y, .disp 0, r)
  | .stYInc r => some (.y, .postInc, r)
  | .stYDec r => some (.y, .preDec, r)
  | .stdY q r => some (.y, .disp q, r)
  | .stZ r => some (.z, .disp 0, r)
  | .stZInc r => some (.z, .postInc, r)
  | .stZDec r => some (.z, .preDec, r)
  | .stdZ q r => some (.z, .disp q, r)
  | _ => none

/-- The instructions that make a data write (R28's "any data write", R67): stores, pushes, `OUT`, `SBI`, `CBI`, calls, the
read-modify-writes. -/
def writesData (i : Instr) : Bool :=
  (storeForm i).isSome ||
  match i with
  | .sts _ _ | .push _ | .out _ _ | .sbi _ _ | .cbi _ _ | .rcall _ | .icall | .call _ => true
  | .xch _ | .las _ | .lac _ | .lat _ => true
  | _ => false

/-- The data addresses an instruction accesses through the dispatch (R64, R65), in order, by the function its meaning uses. -/
def dataAccesses (i : Instr) (s : State) : List Word :=
  match i with
  | .lds _ k | .sts k _ => [k]
  | .push _ => [s.sp]
  | .pop _ => [s.sp + 1]
  | .rcall _ | .icall | .call _ => [s.sp, s.sp - 1]
  | .ret | .reti => [s.sp + 1, s.sp + 2]
  | .in_ _ a | .out a _ => [ioAddr6 a]
  | .sbi a _ | .cbi a _ | .sbic a _ | .sbis a _ => [ioAddr5 a]
  | .xch _ | .las _ | .lac _ | .lat _ => [s.pair 30]
  | j =>
    match loadForm j, storeForm j with
    | some (p, f, _), _ => [effectiveAddress s p f]
    | none, some (p, f, _) => [effectiveAddress s p f]
    | none, none => []

/-- A pointer's two bytes, where the form updates it (R360). -/
def pointerBytes (p : Pointer) (f : Form) : List Nat := if f.updates then [p.low.val, p.low.val + 1] else []

/-- The bytes an instruction that accesses data writes directly (R24): destination register, pointer, `SP`, `SREG` of `RETI`. -/
def directBytes (i : Instr) : List Nat :=
  match i with
  | .lds d _ | .in_ d _ | .xch d | .las d | .lac d | .lat d => [d.val]
  | .push _ | .rcall _ | .icall | .call _ | .ret => [splAddr, sphAddr]
  | .pop d => [splAddr, sphAddr, d.val]
  | .reti => [splAddr, sphAddr, sregAddr]
  | j =>
    match loadForm j, storeForm j with
    | some (p, f, d), _ => d.val :: pointerBytes p f
    | none, some (p, f, _) => pointerBytes p f
    | none, none => []

/-- The data address of an event of the data bus; none for the other outputs. -/
def busAddress : Output → Option Word
  | .ioRead a | .ioWrite a _ | .writeOffer a _ => some a
  | .irqAck _ | .intEntry _ | .intExit | .wdr | .brk => none

/-- R64: what a data read at an address in range answers: a free value where a read chain takes it, else the stored byte. -/
def observed (s : State) (a : Word) : Byte :=
  if s.cfg.readChained a.toNat then Config.freeByte s.draws else s.byte a.toNat

/-- The outputs after a data read: the invocation of the read chain, if one is registered there (R69). -/
def readOutputs (s : State) (a : Word) : List Output :=
  if s.cfg.readChained a.toNat then .ioRead a :: s.outputs else s.outputs

/-- The free values used after a data read. -/
def readDraws (s : State) (a : Word) : Nat := if s.cfg.readChained a.toNat then s.draws + 1 else s.draws

/-- R65 from `s` to `t`, at an address in range: the write of `v` is offered to the callouts there; where they veto it no byte
changes; else a write chain there is invoked with the address and the byte, and only bytes that bindings own may change;
else `v` is stored and no other byte changes. `outputs` and `draws` are those before the write. -/
def WriteLeaves (s t : State) (outputs : List Output) (draws : Nat) (a : Word) (v : Byte) : Prop :=
  let offered := s.cfg.callouts.contains a.toNat
  let vetoed := offered && Config.freeVeto draws
  let after := if offered then .writeOffer a v :: outputs else outputs
  if vetoed then t.outputs = after ∧ ∀ x, t.byte x = s.byte x
  else if s.cfg.writeChained a.toNat then
    t.outputs = .ioWrite a v :: after ∧ ∀ x, s.cfg.owned x = false → t.byte x = s.byte x
  else t.outputs = after ∧ ∀ x, t.byte x = assign s.byte a.toNat v x

/-- R330 after the data read at `a`: the skip's two outcomes, or the fault of reading the next opcode. -/
def SkipsOnBit (i : Instr) (s : State) (a : Word) (cond : Bool) : Prop :=
  let size := wordSize (s.rom.get (s.pc + 1).toNat)
  if cond = true ∧ s.cfg.romWords ≤ (s.pc + 1).toNat then exec i s = .fault (.programOutOfRange (s.pc + 1))
  else exec i s = .next
    { s with
      pc := if cond then s.pc + 1 + BitVec.ofNat 16 size else s.pc + 1
      cycles := if cond then s.cycles + (1 + size) else s.cycles + 1
      instructions := s.instructions + 1
      outputs := readOutputs s a
      draws := readDraws s a }

/-- R28's table: the flags an instruction writes, by number, other than by a data write to 0x5F. -/
def flagsWritten (i : Instr) : List (Fin 8) :=
  match i.base with
  | .add _ _ | .adc _ _ | .sub _ _ | .subi _ _ | .cp _ _ | .cpi _ _ => [0, 1, 2, 3, 4, 5]
  | .sbc _ _ | .sbci _ _ | .cpc _ _ | .neg _ => [0, 1, 2, 3, 4, 5]
  | .adiw _ _ | .sbiw _ _ | .com _ | .lsr _ | .ror _ | .asr _ => [0, 1, 2, 3, 4]
  | .and _ _ | .andi _ _ | .or _ _ | .ori _ _ | .eor _ _ | .inc _ | .dec _ => [1, 2, 3, 4]
  | .mul _ _ | .muls _ _ | .mulsu _ _ | .fmul _ _ | .fmuls _ _ | .fmulsu _ _ => [0, 1]
  | .bset k | .bclr k => [k]
  | .bst _ _ => [6]
  | .reti => [7]
  | _ => []

/-- The instructions that transfer control, or may: jumps, calls, returns, skips, branches (R26). -/
def transfersControl (i : Instr) : Bool :=
  match i.base with
  | .rjmp _ | .ijmp | .jmp _ | .rcall _ | .icall | .call _ | .ret | .reti => true
  | .cpse _ _ | .sbrc _ _ | .sbrs _ _ | .sbic _ _ | .sbis _ _ | .brbs _ _ | .brbc _ _ => true
  | _ => false

/-- R580: the minimum cycles of an instruction. -/
def minCycles (i : Instr) : Nat :=
  match i.base with
  | .adiw _ _ | .sbiw _ _ | .mul _ _ | .muls _ _ | .mulsu _ _ | .fmul _ _ | .fmuls _ _ | .fmulsu _ _ => 2
  | .rjmp _ | .ijmp | .lds _ _ | .sts _ _ | .push _ | .pop _ | .sbi _ _ | .cbi _ _ => 2
  | .xch _ | .las _ | .lac _ | .lat _ => 2
  | .jmp _ | .rcall _ | .icall | .lpm | .lpmZ _ | .lpmZInc _ | .elpm | .elpmZ _ | .elpmZInc _ => 3
  | .call _ | .ret | .reti => 4
  | j => if (loadForm j).isSome || (storeForm j).isSome then 2 else 1

/-- R580: the most cycles an instruction's rule adds to its minimum. -/
def extraCycles (i : Instr) : Nat :=
  match i.base with
  | .cpse _ _ | .sbrc _ _ | .sbrs _ _ | .sbic _ _ | .sbis _ _ => 2
  | .brbs _ _ | .brbc _ _ => 1
  | _ => 0

/-- R521, first row: the instructions that can raise `DataOutOfRange`. -/
def mayFaultData (i : Instr) : Bool :=
  match i with
  | .lds _ _ | .sts _ _ | .push _ | .pop _ | .rcall _ | .icall | .call _ | .ret | .reti => true
  | .xch _ | .las _ | .lac _ | .lat _ => true
  | _ => (loadForm i).isSome || (storeForm i).isSome

/-- R521, second row, in execute: a skip that skips, and `LPM`/`ELPM`. -/
def mayFaultProgram (i : Instr) : Bool :=
  match i with
  | .cpse _ _ | .sbrc _ _ | .sbrs _ _ | .sbic _ _ | .sbis _ _ => true
  | .lpm | .lpmZ _ | .lpmZInc _ | .elpm | .elpmZ _ | .elpmZInc _ => true
  | _ => false

/-- R362: the 28 encodings a model refuses. -/
def overlapping (i : Instr) : Bool :=
  match i with
  | .ldXInc d | .ldXDec d | .stXInc d | .stXDec d => d.val == 26 || d.val == 27
  | .ldYInc d | .ldYDec d | .stYInc d | .stYDec d => d.val == 28 || d.val == 29
  | .ldZInc d | .ldZDec d | .stZInc d | .stZDec d | .lpmZInc d | .elpmZInc d => d.val == 30 || d.val == 31
  | _ => false

/-- R131: the unrecognised words. -/
def unrecognisedWord (hasRmw : Bool) (w : Word) : Bool :=
  let n := w.toNat
  (1 ≤ n && n ≤ 0x00FF) ||
  ((n / 512 == 72 || n / 512 == 73) && (n % 16 == 3 || n % 16 == 8 || n % 16 == 11)) ||
  (!hasRmw && n / 512 == 73 && 4 ≤ n % 16 && n % 16 ≤ 7) ||
  (n / 512 == 74 && n % 16 == 4) ||
  (n == 0x9528 || n == 0x9538 || n == 0x9548 || n == 0x9558 || n == 0x9568 || n == 0x9578 || n == 0x95B8) ||
  (n / 512 == 74 && n % 16 == 9 && !(n == 0x9409 || n == 0x9419 || n == 0x9509 || n == 0x9519)) ||
  (n / 256 == 0x95 && n % 16 == 11) ||
  (n / 2048 == 31 && n / 8 % 2 == 1)

/-- The second word the fetch delivers: the word at `pc + 1` for a two-word instruction, zero otherwise. -/
def secondWord (s : State) : Word :=
  if wordSize (s.rom.get s.pc.toNat) = 2 then s.rom.get (s.pc + 1).toNat else 0

/-- Every word of the instruction at `pc` is in program memory. -/
abbrev Fetchable (s : State) : Prop :=
  s.pc.toNat < s.cfg.romWords ∧ (wordSize (s.rom.get s.pc.toNat) = 2 → (s.pc + 1).toNat < s.cfg.romWords)

/-- The stack bytes a two-byte push writes lie in plain storage and apart from `SPL` and `SPH`. -/
abbrev StackClear (s : State) : Prop :=
  s.Reaches s.sp ∧ s.Reaches (s.sp - 1) ∧
    s.sp.toNat ≠ splAddr ∧ s.sp.toNat ≠ sphAddr ∧ (s.sp - 1).toNat ≠ splAddr ∧ (s.sp - 1).toNat ≠ sphAddr

end Sys2Proof.Machine

open Sys2Proof Sys2Proof.Machine

/-! ## Flag computations -/

/-- R200: the Boolean formulas of `AddFlags`, and that they are the carries and the signed overflow. -/
def Obligations.AddFlagsAreFormulasAndCarries : Prop :=
  (∀ (f : Flags) (a b r : Byte), addFlags f a b r =
    { f with
      h := (a.getLsbD 3 && b.getLsbD 3) || (b.getLsbD 3 && !r.getLsbD 3) || (!r.getLsbD 3 && a.getLsbD 3)
      c := (a.getLsbD 7 && b.getLsbD 7) || (b.getLsbD 7 && !r.getLsbD 7) || (!r.getLsbD 7 && a.getLsbD 7)
      v := (a.getLsbD 7 && b.getLsbD 7 && !r.getLsbD 7) || (!a.getLsbD 7 && !b.getLsbD 7 && r.getLsbD 7)
      n := r.getLsbD 7
      z := decide (r = 0)
      s := r.getLsbD 7 ^^
        ((a.getLsbD 7 && b.getLsbD 7 && !r.getLsbD 7) || (!a.getLsbD 7 && !b.getLsbD 7 && r.getLsbD 7)) }) ∧
  ∀ (f : Flags) (a b : Byte) (carry : Bool),
    addFlags f a b (BitVec.ofNat 8 (a.toNat + b.toNat + carry.toNat)) = sumFlags f a b carry

/-- R201: the Boolean formulas of `SubFlags` with the sticky Z, and that they are the borrows and the signed overflow. -/
def Obligations.SubFlagsAreFormulasAndBorrows : Prop :=
  (∀ (f : Flags) (a b r : Byte) (sticky : Bool), subFlags f a b r sticky =
    { f with
      h := (!a.getLsbD 3 && b.getLsbD 3) || (b.getLsbD 3 && r.getLsbD 3) || (r.getLsbD 3 && !a.getLsbD 3)
      c := (!a.getLsbD 7 && b.getLsbD 7) || (b.getLsbD 7 && r.getLsbD 7) || (r.getLsbD 7 && !a.getLsbD 7)
      v := (a.getLsbD 7 && !b.getLsbD 7 && !r.getLsbD 7) || (!a.getLsbD 7 && b.getLsbD 7 && r.getLsbD 7)
      n := r.getLsbD 7
      z := if sticky then decide (r = 0) && f.z else decide (r = 0)
      s := r.getLsbD 7 ^^
        ((a.getLsbD 7 && !b.getLsbD 7 && !r.getLsbD 7) || (!a.getLsbD 7 && b.getLsbD 7 && r.getLsbD 7)) }) ∧
  ∀ (f : Flags) (a b : Byte) (borrow sticky : Bool),
    subFlags f a b (BitVec.ofNat 8 (a.toNat + 512 - b.toNat - borrow.toNat)) sticky =
      differenceFlags f a b borrow sticky

/-! ## Arithmetic, compare and logic -/

/-- R203, R204: `ADD` and `ADC`: result, flags, frame. -/
def Obligations.AdditionsGiveSumAndFlags : Prop :=
  ∀ (s : State) (d r : Reg), s.dm.wf = true →
    AddsInto (.add d r) s d (s.reg r) false ∧ AddsInto (.adc d r) s d (s.reg r) s.flags.c

/-- R206 to R209: `SUB`, `SUBI`, `SBC`, `SBCI`: result, flags with the sticky Z, frame. -/
def Obligations.SubtractionsGiveDifferenceAndFlags : Prop :=
  ∀ (s : State) (d r : Reg) (k : Byte), s.dm.wf = true →
    SubtractsInto (.sub d r) s d (s.reg r) false false ∧ SubtractsInto (.subi d k) s d k false false ∧
    SubtractsInto (.sbc d r) s d (s.reg r) s.flags.c true ∧ SubtractsInto (.sbci d k) s d k s.flags.c true

/-- R220, R221, R226: `CP`, `CPC`, `CPI` write the flags of the difference and no register. -/
def Obligations.ComparesWriteFlagsOnly : Prop :=
  ∀ (s : State) (d r : Reg) (k : Byte), s.dm.wf = true →
    Compares (.cp d r) s d (s.reg r) false false ∧ Compares (.cpc d r) s d (s.reg r) s.flags.c true ∧
    Compares (.cpi d k) s d k false false

/-- R211 to R215 and the aliases R222 to R225. -/
def Obligations.LogicGivesResultAndFlags : Prop :=
  ∀ (s : State) (d r : Reg) (k : Byte), s.dm.wf = true →
    LogicInto (.and d r) s d (s.reg d &&& s.reg r) ∧ LogicInto (.andi d k) s d (s.reg d &&& k) ∧
    LogicInto (.or d r) s d (s.reg d ||| s.reg r) ∧ LogicInto (.ori d k) s d (s.reg d ||| k) ∧
    LogicInto (.eor d r) s d (s.reg d ^^^ s.reg r) ∧ LogicInto (.tst d) s d (s.reg d) ∧
    LogicInto (.clr d) s d 0 ∧ LogicInto (.sbr d k) s d (s.reg d ||| k) ∧ LogicInto (.cbr d k) s d (s.reg d &&& ~~~k)

/-- R216 to R219: `COM`, `NEG`, `INC`, `DEC`. -/
def Obligations.OneOperandArithmetic : Prop :=
  ∀ (s : State) (d : Reg), s.dm.wf = true →
    let a := (s.reg d).toNat
    let com := BitVec.ofNat 8 (255 - a)
    let neg := BitVec.ofNat 8 (256 - a)
    let inc := BitVec.ofNat 8 (a + 1)
    let dec := BitVec.ofNat 8 (a + 255)
    WritesRegAndFlags (.com d) s d com { resultFlags s.flags com false with c := true } ∧
    WritesRegAndFlags (.neg d) s d neg
      { resultFlags s.flags neg (decide (neg.toNat = 0x80)) with
        h := neg.getLsbD 3 || (s.reg d).getLsbD 3
        c := decide (neg.toNat ≠ 0) } ∧
    WritesRegAndFlags (.inc d) s d inc (resultFlags s.flags inc (decide (inc.toNat = 0x80))) ∧
    WritesRegAndFlags (.dec d) s d dec (resultFlags s.flags dec (decide (dec.toNat = 0x7F)))

/-- R205, R210: `ADIW` and `SBIW`: the pair modulo 2^16, C the carry or borrow, V the signed overflow, H unchanged. -/
def Obligations.WordImmediatesGiveResultAndFlags : Prop :=
  ∀ (s : State) (d : Reg) (k : BitVec 6), s.dm.wf = true →
    let a := (s.pair d).toNat
    let sum := BitVec.ofNat 16 (a + k.toNat)
    let diff := BitVec.ofNat 16 (a + 65536 - k.toNat)
    Finishes (.adiw d k) s (s.pc + 1) 2
      (assignPair (assign s.byte sregAddr
        { resultFlags16 s.flags sum (decide (a < 32768 ∧ 32768 ≤ sum.toNat)) with c := decide (65536 ≤ a + k.toNat) }.toByte)
        d.val sum) ∧
    Finishes (.sbiw d k) s (s.pc + 1) 2
      (assignPair (assign s.byte sregAddr
        { resultFlags16 s.flags diff (decide (32768 ≤ a ∧ diff.toNat < 32768)) with c := decide (a < k.toNat) }.toByte)
        d.val diff)

/-! ## Multiply -/

/-- R240 to R247: the six multiplies. The product is exact, fractional forms store it doubled, C is bit 15 of the product,
Z is whether the product is zero. -/
def Obligations.MultipliesStoreExactProduct : Prop :=
  ∀ (s : State) (d r : Reg), s.dm.wf = true →
    let a := s.reg d
    let b := s.reg r
    ∃ uu ss su : Word, uu.toNat = a.toNat * b.toNat ∧ ss.toInt = a.toInt * b.toInt ∧ su.toInt = a.toInt * b.toNat ∧
      Multiplies (.mul d r) s uu false ∧ Multiplies (.muls d r) s ss false ∧ Multiplies (.mulsu d r) s su false ∧
      Multiplies (.fmul d r) s uu true ∧ Multiplies (.fmuls d r) s ss true ∧ Multiplies (.fmulsu d r) s su true

/-! ## Shifts, flags, bits -/

/-- R250 to R255: `LSL`, `ROL`, `LSR`, `ROR`, `ASR`, `SWAP`. -/
def Obligations.ShiftsGiveResultAndFlags : Prop :=
  ∀ (s : State) (d : Reg), s.dm.wf = true →
    let a := s.reg d
    ShiftsLeftInto (.lsl d) s d false ∧ ShiftsLeftInto (.rol d) s d s.flags.c ∧
    ShiftsInto (.lsr d) s d (BitVec.ofNat 8 (a.toNat / 2)) ∧
    ShiftsInto (.ror d) s d (BitVec.ofNat 8 (a.toNat / 2 + 128 * s.flags.c.toNat)) ∧
    ShiftsInto (.asr d) s d (BitVec.ofInt 8 (a.toInt / 2)) ∧
    WritesReg (.swap d) s d (BitVec.ofNat 8 (a.toNat % 16 * 16 + a.toNat / 16))

/-- R260 to R277: `BSET`, `BCLR` and their sixteen other names. -/
def Obligations.FlagInstructionsPutOneFlag : Prop :=
  ∀ (s : State) (k : Fin 8), s.dm.wf = true →
    PutsFlag (.bset k) s k.val true ∧ PutsFlag (.bclr k) s k.val false ∧
    PutsFlag .sec s 0 true ∧ PutsFlag .sez s 1 true ∧ PutsFlag .sen s 2 true ∧ PutsFlag .sev s 3 true ∧
    PutsFlag .ses s 4 true ∧ PutsFlag .seh s 5 true ∧ PutsFlag .set_ s 6 true ∧ PutsFlag .sei s 7 true ∧
    PutsFlag .clc s 0 false ∧ PutsFlag .clz s 1 false ∧ PutsFlag .cln s 2 false ∧ PutsFlag .clv s 3 false ∧
    PutsFlag .cls s 4 false ∧ PutsFlag .clh s 5 false ∧ PutsFlag .clt s 6 false ∧ PutsFlag .cli s 7 false

/-- R278, R279: `BST` copies a bit to T, `BLD` copies T to a bit; every other flag and bit is unchanged. -/
def Obligations.BitCopiesThroughT : Prop :=
  ∀ (s : State) (d : Reg) (b : Fin 8), s.dm.wf = true →
    PutsFlag (.bst d b) s 6 ((s.reg d).getLsbD b.val) ∧
    ∃ v : Byte, WritesReg (.bld d b) s d v ∧
      ∀ j : Nat, j < 8 → v.getLsbD j = if j = b.val then s.flags.t else (s.reg d).getLsbD j

/-- R280, R281: `SBI` and `CBI` change one bit of a plain I/O byte. -/
def Obligations.IoBitWrites : Prop :=
  ∀ (s : State) (a : BitVec 5) (b : Fin 8), s.cfg.Legal → s.dm.wf = true → s.PlainAt (BitVec.ofNat 16 (a.toNat + 32)) →
    Finishes (.sbi a b) s (s.pc + 1) 2
      (assign s.byte (a.toNat + 32) (s.byte (a.toNat + 32) ||| BitVec.ofNat 8 (2 ^ b.val))) ∧
    Finishes (.cbi a b) s (s.pc + 1) 2
      (assign s.byte (a.toNat + 32) (s.byte (a.toNat + 32) &&& BitVec.ofNat 8 (255 - 2 ^ b.val)))

/-! ## Control flow -/

/-- R303, R304, R306: `RJMP`, `IJMP`, `JMP`: the target modulo 2^16, nothing else changes. -/
def Obligations.JumpsReachTheirTargets : Prop :=
  ∀ (s : State) (k : BitVec 12) (k22 : BitVec 22),
    OnlyMoves (.rjmp k) s (BitVec.ofInt 16 (s.pc.toNat + k.toInt + 1)) 2 ∧
    OnlyMoves .ijmp s (s.pair 30) 2 ∧
    OnlyMoves (.jmp k22) s (BitVec.ofNat 16 (k22.toNat % 65536)) 3

/-- R307, R308, R310 with R301: the calls push the return address and go to the target. The model's reading: `ICALL` takes
its target from Z after the push (log entry 9), and both push addresses come from the `SP` before it (log entry 10). -/
def Obligations.CallsPushReturnAddress : Prop :=
  ∀ (s : State) (k : BitVec 12) (k22 : BitVec 22), s.dm.wf = true → s.Reaches s.sp → s.Reaches (s.sp - 1) →
    Finishes (.rcall k) s (BitVec.ofInt 16 (s.pc.toNat + k.toInt + 1)) 3 (pushedView s (s.pc + 1)) ∧
    Finishes .icall s (pushedView s (s.pc + 1) 31 ++ pushedView s (s.pc + 1) 30) 3 (pushedView s (s.pc + 1)) ∧
    Finishes (.call k22) s (BitVec.ofNat 16 (k22.toNat % 65536)) 4 (pushedView s (s.pc + 2))

/-- R301, R522, R506: which fault a call or an interrupt entry reports: the low-byte write at `SP` comes first, then the
high-byte write at `SP - 1` (log entry 10). -/
def Obligations.PushFaultIsTheFirstWrite : Prop :=
  ∀ (s : State) (k : BitVec 12) (k22 : BitVec 22), s.cfg.CoreOnly →
    (s.cfg.dataSize ≤ s.sp.toNat →
      exec (.rcall k) s = .fault (.dataOutOfRange s.sp) ∧ exec .icall s = .fault (.dataOutOfRange s.sp) ∧
      exec (.call k22) s = .fault (.dataOutOfRange s.sp) ∧
      (s.flags.i = true → s.intPending ≠ 0 → service s = .fault (.dataOutOfRange s.sp))) ∧
    (s.sp.toNat < s.cfg.dataSize → s.cfg.dataSize ≤ (s.sp - 1).toNat →
      exec (.rcall k) s = .fault (.dataOutOfRange (s.sp - 1)) ∧ exec .icall s = .fault (.dataOutOfRange (s.sp - 1)) ∧
      exec (.call k22) s = .fault (.dataOutOfRange (s.sp - 1)) ∧
      (s.flags.i = true → s.intPending ≠ 0 → service s = .fault (.dataOutOfRange (s.sp - 1))))

/-- R311, R312 with R302: `RET` pops `pc`; `RETI` pops `pc`, sets I and emits `int_exit`; or the first fault of the reads. -/
def Obligations.ReturnsPopTheProgramCounter : Prop :=
  ∀ s : State, s.dm.wf = true →
    ((s.sp + 1).toNat < s.cfg.dataSize → (s.sp + 2).toNat < s.cfg.dataSize →
      s.cfg.readChained (s.sp + 1).toNat = false → s.cfg.readChained (s.sp + 2).toNat = false →
      Finishes .ret s (poppedAddress s) 4 (poppedView s) ∧
      ∃ m : Memory 8,
        exec .reti s = .next
          { s with
            dm := m
            pc := poppedAddress s
            cycles := s.cycles + 4
            instructions := s.instructions + 1
            outputs := .intExit :: s.outputs } ∧
        ∀ a, m.get a = assign (poppedView s) sregAddr (poppedView s sregAddr ||| 0x80) a) ∧
    (s.cfg.dataSize ≤ (s.sp + 1).toNat →
      exec .ret s = .fault (.dataOutOfRange (s.sp + 1)) ∧ exec .reti s = .fault (.dataOutOfRange (s.sp + 1))) ∧
    ((s.sp + 1).toNat < s.cfg.dataSize → s.cfg.dataSize ≤ (s.sp + 2).toNat →
      exec .ret s = .fault (.dataOutOfRange (s.sp + 2)) ∧ exec .reti s = .fault (.dataOutOfRange (s.sp + 2)))

/-- W4, R302: a return after a call goes to the instruction after the call and restores `SP`. -/
def Obligations.CallThenReturnComesBack : Prop :=
  ∀ (s : State) (k : BitVec 12) (k22 : BitVec 22), s.dm.wf = true → StackClear s →
    (∃ t u : State, exec (.rcall k) s = .next t ∧ exec .ret t = .next u ∧ u.pc = s.pc + 1 ∧ u.sp = s.sp) ∧
    (∃ t u : State, exec .icall s = .next t ∧ exec .ret t = .next u ∧ u.pc = s.pc + 1 ∧ u.sp = s.sp) ∧
    (∃ t u : State, exec (.call k22) s = .next t ∧ exec .ret t = .next u ∧ u.pc = s.pc + 2 ∧ u.sp = s.sp)

/-- R330 to R333: the register skips. -/
def Obligations.RegisterSkips : Prop :=
  ∀ (s : State) (d r : Reg) (b : Fin 8),
    Skips (.cpse d r) s (decide ((s.reg d).toNat = (s.reg r).toNat)) ∧
    Skips (.sbrc r b) s (!(s.reg r).getLsbD b.val) ∧ Skips (.sbrs r b) s ((s.reg r).getLsbD b.val)

/-- R334, R335: the I/O skips, at a plain I/O address. -/
def Obligations.IoSkips : Prop :=
  ∀ (s : State) (a : BitVec 5) (b : Fin 8), s.cfg.Legal → s.cfg.readChained (a.toNat + 32) = false →
    Skips (.sbic a b) s (!(s.byte (a.toNat + 32)).getLsbD b.val) ∧
    Skips (.sbis a b) s ((s.byte (a.toNat + 32)).getLsbD b.val)

/-- R340 to R359: `BRBS`, `BRBC` and their eighteen other names. -/
def Obligations.BranchesFollowTheirFlag : Prop :=
  ∀ (s : State) (i : Fin 8) (k : BitVec 7),
    let flag := fun n : Nat => s.sreg.getLsbD n
    Branches (.brbs i k) s (flag i.val) k ∧ Branches (.brbc i k) s (!flag i.val) k ∧
    Branches (.brcs k) s (flag 0) k ∧ Branches (.brlo k) s (flag 0) k ∧
    Branches (.brcc k) s (!flag 0) k ∧ Branches (.brsh k) s (!flag 0) k ∧
    Branches (.breq k) s (flag 1) k ∧ Branches (.brne k) s (!flag 1) k ∧
    Branches (.brmi k) s (flag 2) k ∧ Branches (.brpl k) s (!flag 2) k ∧
    Branches (.brvs k) s (flag 3) k ∧ Branches (.brvc k) s (!flag 3) k ∧
    Branches (.brlt k) s (flag 4) k ∧ Branches (.brge k) s (!flag 4) k ∧
    Branches (.brhs k) s (flag 5) k ∧ Branches (.brhc k) s (!flag 5) k ∧
    Branches (.brts k) s (flag 6) k ∧ Branches (.brtc k) s (!flag 6) k ∧
    Branches (.brie k) s (flag 7) k ∧ Branches (.brid k) s (!flag 7) k

/-! ## Data transfer -/

/-- R363 to R366: `MOV`, `MOVW`, `LDI`, `SER`. -/
def Obligations.RegisterMoves : Prop :=
  ∀ (s : State) (d r : Reg) (k : Byte), s.dm.wf = true →
    WritesReg (.mov d r) s d (s.reg r) ∧ WritesReg (.ldi d k) s d k ∧ WritesReg (.ser d) s d 0xFF ∧
    Finishes (.movw d r) s (s.pc + 1) 1
      (assign (assign s.byte d.val (s.byte r.val)) (d.val + 1) (s.byte (r.val + 1)))

/-- R367, R368: `LDS` and `STS`, past two words; or the fault at the address. -/
def Obligations.DirectLoadAndStore : Prop :=
  ∀ (s : State) (d r : Reg) (k : Word), s.dm.wf = true →
    (k.toNat < s.cfg.dataSize → s.cfg.readChained k.toNat = false →
      Finishes (.lds d k) s (s.pc + 2) 2 (assign s.byte d.val (s.byte k.toNat))) ∧
    (s.cfg.dataSize ≤ k.toNat → exec (.lds d k) s = .fault (.dataOutOfRange k)) ∧
    (s.Reaches k → Finishes (.sts k r) s (s.pc + 2) 2 (assign s.byte k.toNat (s.reg r))) ∧
    (s.cfg.dataSize ≤ k.toNat → s.cfg.callouts.contains k.toNat = false →
      exec (.sts k r) s = .fault (.dataOutOfRange k))

/-- R370, R376, R380: the indirect loads that leave the pointer. -/
def Obligations.PlainIndirectLoads : Prop :=
  ∀ (s : State) (d : Reg) (q : BitVec 6), s.dm.wf = true →
    let at_ := fun (p : Reg) (n : Nat) => BitVec.ofNat 16 ((s.pair p).toNat + n)
    LoadsFrom (.ldX d) s d (at_ 26 0) s.byte s.byte ∧
    LoadsFrom (.ldY d) s d (at_ 28 0) s.byte s.byte ∧ LoadsFrom (.lddY d q) s d (at_ 28 q.toNat) s.byte s.byte ∧
    LoadsFrom (.ldZ d) s d (at_ 30 0) s.byte s.byte ∧ LoadsFrom (.lddZ d q) s d (at_ 30 q.toNat) s.byte s.byte

/-- R371, R372, R374, R375, R378, R379: the indirect loads that move the pointer. -/
def Obligations.MovingIndirectLoads : Prop :=
  ∀ (s : State) (d : Reg), s.dm.wf = true →
    let inc := fun (p : Reg) => assignPair s.byte p.val (s.pair p + 1)
    let dec := fun (p : Reg) => assignPair s.byte p.val (s.pair p - 1)
    (d.val ≠ 26 → d.val ≠ 27 →
      LoadsFrom (.ldXInc d) s d (s.pair 26) s.byte (inc 26) ∧
      LoadsFrom (.ldXDec d) s d (s.pair 26 - 1) (dec 26) (dec 26)) ∧
    (d.val ≠ 28 → d.val ≠ 29 →
      LoadsFrom (.ldYInc d) s d (s.pair 28) s.byte (inc 28) ∧
      LoadsFrom (.ldYDec d) s d (s.pair 28 - 1) (dec 28) (dec 28)) ∧
    (d.val ≠ 30 → d.val ≠ 31 →
      LoadsFrom (.ldZInc d) s d (s.pair 30) s.byte (inc 30) ∧
      LoadsFrom (.ldZDec d) s d (s.pair 30 - 1) (dec 30) (dec 30))

/-- R386, R392, R396: the indirect stores that leave the pointer. -/
def Obligations.PlainIndirectStores : Prop :=
  ∀ (s : State) (r : Reg) (q : BitVec 6), s.dm.wf = true →
    let at_ := fun (p : Reg) (n : Nat) => BitVec.ofNat 16 ((s.pair p).toNat + n)
    let put := fun (a : Word) => assign s.byte a.toNat (s.reg r)
    StoresTo (.stX r) s (at_ 26 0) (put (at_ 26 0)) ∧
    StoresTo (.stY r) s (at_ 28 0) (put (at_ 28 0)) ∧ StoresTo (.stdY q r) s (at_ 28 q.toNat) (put (at_ 28 q.toNat)) ∧
    StoresTo (.stZ r) s (at_ 30 0) (put (at_ 30 0)) ∧ StoresTo (.stdZ q r) s (at_ 30 q.toNat) (put (at_ 30 q.toNat))

/-- R387, R388, R390, R391, R394, R395: the indirect stores that move the pointer, in the order of R360 (D41). -/
def Obligations.MovingIndirectStores : Prop :=
  ∀ (s : State) (r : Reg), s.dm.wf = true →
    let inc := fun (p : Reg) => assignPair (assign s.byte (s.pair p).toNat (s.reg r)) p.val (s.pair p + 1)
    let dec := fun (p : Reg) => assign (assignPair s.byte p.val (s.pair p - 1)) (s.pair p - 1).toNat (s.reg r)
    (r.val ≠ 26 → r.val ≠ 27 →
      StoresTo (.stXInc r) s (s.pair 26) (inc 26) ∧ StoresTo (.stXDec r) s (s.pair 26 - 1) (dec 26)) ∧
    (r.val ≠ 28 → r.val ≠ 29 →
      StoresTo (.stYInc r) s (s.pair 28) (inc 28) ∧ StoresTo (.stYDec r) s (s.pair 28 - 1) (dec 28)) ∧
    (r.val ≠ 30 → r.val ≠ 31 →
      StoresTo (.stZInc r) s (s.pair 30) (inc 30) ∧ StoresTo (.stZDec r) s (s.pair 30 - 1) (dec 30))

/-- R362, decision D16: a model refuses the 28 overlapping encodings (log entry 5), and this one refuses nothing else. -/
def Obligations.OnlyOverlapsAreRefused : Prop :=
  ∀ (i : Instr) (s : State),
    (overlapping i = true → exec i s = .refused .pointerOverlap) ∧
    ∀ e : Refusal, exec i s = .refused e → e = .pointerOverlap ∧ overlapping i = true

/-- R400 to R408: `LPM` and `ELPM`, three forms each: the byte, the pointer, the frame, or the fault. -/
def Obligations.ProgramMemoryLoads : Prop :=
  ∀ (s : State) (d : Reg), s.dm.wf = true →
    let inc := assignPair s.byte 30 (s.pair 30 + 1)
    LoadsProgramByte .lpm s 0 s.byte ∧ LoadsProgramByte (.lpmZ d) s d s.byte ∧
    LoadsProgramByte .elpm s 0 s.byte ∧ LoadsProgramByte (.elpmZ d) s d s.byte ∧
    (d.val ≠ 30 → d.val ≠ 31 →
      LoadsProgramByte (.lpmZInc d) s d inc ∧ LoadsProgramByte (.elpmZInc d) s d inc)

/-- R410, R411 with R74, R64, R65: `IN` reads the byte at A + 32 where no read chain takes it, `OUT` stores there where no
write chain and no callout does. -/
def Obligations.IoReadAndWrite : Prop :=
  ∀ (s : State) (d r : Reg) (a : BitVec 6), s.cfg.Legal → s.dm.wf = true →
    (s.cfg.readChained (a.toNat + 32) = false → WritesReg (.in_ d a) s d (s.byte (a.toNat + 32))) ∧
    (s.cfg.writeChained (a.toNat + 32) = false → s.cfg.callouts.contains (a.toNat + 32) = false →
      Finishes (.out a r) s (s.pc + 1) 1 (assign s.byte (a.toNat + 32) (s.reg r)))

/-- R410, R411, R280, R281, R334, R335 with R64, R65, R69, R70, R72: in every legal configuration, whatever handlers and
callouts answer, the I/O instructions do what the dispatch leaves. A handled read delivers a free value (U7, log entry 4).
What handlers and callouts may change is the model's reading (log entries 13 and 14); their invocations are recorded as log
entry 12 says. -/
def Obligations.IoInstructionsCompleteUnderAnyEnvironment : Prop :=
  ∀ (s : State) (d r : Reg) (a : BitVec 6) (a5 : BitVec 5) (b : Fin 8), s.cfg.Legal → s.dm.wf = true →
    let writes := fun (i : Instr) (n : Nat) (outputs : List Output) (draws : Nat) (x : Word) (v : Byte) =>
      ∃ t : State, exec i s = .next t ∧ SameControl s t ∧ t.pc = s.pc + 1 ∧ t.cycles = s.cycles + n ∧
        t.instructions = s.instructions + 1 ∧ WriteLeaves s t outputs draws x v
    let x6 := BitVec.ofNat 16 (a.toNat + 32)
    let x5 := BitVec.ofNat 16 (a5.toNat + 32)
    let old := observed s x5
    (∃ m : Memory 8,
      exec (.in_ d a) s = .next
        { s with
          dm := m
          pc := s.pc + 1
          cycles := s.cycles + 1
          instructions := s.instructions + 1
          outputs := readOutputs s x6
          draws := readDraws s x6 } ∧
      ∀ x, m.get x = assign s.byte d.val (observed s x6) x) ∧
    writes (.out a r) 1 s.outputs s.draws x6 (s.reg r) ∧
    writes (.sbi a5 b) 2 (readOutputs s x5) (readDraws s x5) x5 (old ||| BitVec.ofNat 8 (2 ^ b.val)) ∧
    writes (.cbi a5 b) 2 (readOutputs s x5) (readDraws s x5) x5 (old &&& BitVec.ofNat 8 (255 - 2 ^ b.val)) ∧
    SkipsOnBit (.sbic a5 b) s x5 (!old.getLsbD b.val) ∧ SkipsOnBit (.sbis a5 b) s x5 (old.getLsbD b.val)

/-- R412, R413: `PUSH` and `POP`: the stack byte, `SP` modulo 2^16, the frame, or the fault. -/
def Obligations.PushAndPop : Prop :=
  ∀ (s : State) (d r : Reg), s.dm.wf = true →
    let popped := assignPair s.byte splAddr (s.sp + 1)
    (s.Reaches s.sp →
      Finishes (.push r) s (s.pc + 1) 2 (assignPair (assign s.byte s.sp.toNat (s.reg r)) splAddr (s.sp - 1))) ∧
    (s.cfg.dataSize ≤ s.sp.toNat → s.cfg.callouts.contains s.sp.toNat = false →
      exec (.push r) s = .fault (.dataOutOfRange s.sp)) ∧
    ((s.sp + 1).toNat < s.cfg.dataSize → s.cfg.readChained (s.sp + 1).toNat = false →
      Finishes (.pop d) s (s.pc + 1) 2 (assign popped d.val (popped (s.sp + 1).toNat))) ∧
    (s.cfg.dataSize ≤ (s.sp + 1).toNat → exec (.pop d) s = .fault (.dataOutOfRange (s.sp + 1)))

/-- W3, R413: `PUSH r` then `POP d` copies the byte and restores `SP`. -/
def Obligations.PushThenPopCopies : Prop :=
  ∀ (s : State) (d r : Reg), s.dm.wf = true → s.Reaches s.sp → s.sp.toNat ≠ splAddr → s.sp.toNat ≠ sphAddr →
    ∃ t u : State, exec (.push r) s = .next t ∧ exec (.pop d) t = .next u ∧ u.reg d = s.reg r ∧ u.sp = s.sp ∧
      ∀ a, a ≠ s.sp.toNat → a ≠ d.val → u.byte a = s.byte a

/-- R420 to R423: the read-modify-writes through Z. -/
def Obligations.ReadModifyWriteThroughZ : Prop :=
  ∀ (s : State) (d : Reg), s.dm.wf = true →
    let old := s.byte (s.pair 30).toNat
    ExchangesAtZ (.xch d) s d (s.reg d) ∧ ExchangesAtZ (.las d) s d (old ||| s.reg d) ∧
    ExchangesAtZ (.lac d) s d (old &&& ~~~s.reg d) ∧ ExchangesAtZ (.lat d) s d (old ^^^ s.reg d)

/-- R64, R65, R69, R70, R72: in any configuration, when an instruction that accesses data goes on, every byte is as before but
those it writes directly, those it stores to, and, where a write chain takes a store, those that bindings own; the bus
events it adds are at the addresses it accesses. What handlers and callouts may change is the model's reading (log entries
13 and 14, and log entry 10 for the second address of a push). -/
def Obligations.DataAccessFrame : Prop :=
  ∀ (i : Instr) (s t : State), s.dm.wf = true → dataAccesses i s ≠ [] → exec i s = .next t →
    SameControl s t ∧
    (∃ events : List Output, t.outputs = events ++ s.outputs ∧
      ∀ e ∈ events, (∃ a ∈ dataAccesses i s, busAddress e = some a) ∨ (i = .reti ∧ e = .intExit)) ∧
    ∀ x, x ∉ directBytes i → (writesData i = true → ∀ a ∈ dataAccesses i s, s.cfg.Spares a x) → t.byte x = s.byte x

/-! ## Control instructions and no-ops -/

/-- R305, R309, R430, R435 to R437: the no-ops change nothing; R432 to R434: `SLEEP` sets the asleep flag, `WDR` and
`BREAK` pulse an output (recorded as log entry 12 says), and nothing else changes. -/
def Obligations.ControlInstructionsAndNoOps : Prop :=
  ∀ (s : State) (k : BitVec 4),
    let next := { s with pc := s.pc + 1, cycles := s.cycles + 1, instructions := s.instructions + 1 }
    exec .nop s = .next next ∧ exec (.des k) s = .next next ∧ exec .spm s = .next next ∧
    exec .spmZInc s = .next next ∧ exec .eijmp s = .next next ∧ exec .eicall s = .next next ∧
    exec .sleep s = .next { next with asleep := true } ∧
    exec .wdr s = .next { next with outputs := .wdr :: s.outputs } ∧
    exec .break_ s = .next { next with outputs := .brk :: s.outputs }

/-- R141: another name of an instruction does what the instruction its words decode to does (the names are constructors of
their own: log entry 7). -/
def Obligations.OtherNamesMeanTheirBase : Prop := ∀ (i : Instr) (s : State), exec i s = exec i.base s

/-! ## Encoding -/

/-- R125 to R127, R140: words written out from the encodings decode to the instructions they stand for. -/
def Obligations.SpelledWordsDecode : Prop :=
  decodeWords false 0b0000110000010010 0 = some (.add 1 2) ∧
  decodeWords false 0b1001011000000001 0 = some (.adiw 24 1) ∧
  decodeWords false 0b1001110000100011 0 = some (.mul 2 3) ∧
  decodeWords false 0b1001010001000111 0 = some (.ror 4) ∧
  decodeWords false 0b1001101000101011 0 = some (.sbi 5 3) ∧
  decodeWords false 0b1001010111111101 0x0123 = some (.jmp 0x3F0123) ∧
  decodeWords false 0b1111001111101001 0 = some (.brbs 1 (-3)) ∧
  decodeWords false 0b1010110000011111 0 = some (.lddY 1 63) ∧
  decodeWords false 0b1011111001001110 0 = some (.out 0x3E 4) ∧
  decodeWords true 0b1001001001010100 0 = some (.xch 5) ∧
  decodeWords false 0b1001010011111011 0 = some (.des 15)

/-- R101, R141: decoding the words of any well-formed instruction gives the instruction back (an alias gives its base),
with every operand, and leaves the words after it. -/
def Obligations.DecodeOfEncode : Prop :=
  ∀ (i : Instr) (rest : List Word), i.wellFormed = true → decode true (encode i ++ rest) = .ok (i.base, rest)

/-- R101, R125: each word has one meaning: what the decoder reads is well-formed, is no alias, and encodes to the words it
was read from. -/
def Obligations.EncodeOfDecode : Prop :=
  ∀ (hasRmw : Bool) (w w2 : Word) (i : Instr), decodeWords hasRmw w w2 = some i →
    i.wellFormed = true ∧ i.base = i ∧ encode i = if wordSize w = 2 then [w, w2] else [w]

/-- R131: the unrecognised words are exactly the sets listed, and `HAS_RMW` changes the decoding of no other word. -/
def Obligations.UnrecognisedWordsAreTheListedSets : Prop :=
  ∀ (hasRmw : Bool) (w w2 : Word),
    (decodeWords hasRmw w w2 = none ↔ unrecognisedWord hasRmw w = true) ∧
    (unrecognisedWord false w = false → decodeWords hasRmw w w2 = decodeWords true w w2)

/-! ## The step -/

/-- R150 to R156: when the words at `pc` decode to `i`, the step is `exec i`, then the tick phase, one pulse a cycle
consumed, then service; an unrecognised word only advances (R440, log entry 8). The events of the tick phase are the
model's schedule (log entry 3). -/
def Obligations.StepRunsDecodedInstruction : Prop :=
  ∀ s : State, s.asleep = false → Fetchable s →
    (∀ i, decodeWords s.cfg.hasRmw (s.rom.get s.pc.toNat) (secondWord s) = some i →
      (∀ t, exec i s = .next t → step s = service (tickPhase (t.cycles - s.cycles) t)) ∧
      (∀ e, exec i s = .fault e → step s = .fault e) ∧
      (∀ e, exec i s = .refused e → step s = .refused e)) ∧
    (decodeWords s.cfg.hasRmw (s.rom.get s.pc.toNat) (secondWord s) = none →
      step s = service (tickPhase 1
        { s with pc := s.pc + 1, cycles := s.cycles + 1, instructions := s.instructions + 1 }))

/-- R62, R151, R153: a fetch outside program memory is the fatal fault with the word address. -/
def Obligations.FetchOutsideProgramMemoryFaults : Prop :=
  ∀ s : State, s.asleep = false →
    (s.cfg.romWords ≤ s.pc.toNat → step s = .fault (.programOutOfRange s.pc)) ∧
    (s.pc.toNat < s.cfg.romWords → wordSize (s.rom.get s.pc.toNat) = 2 → s.cfg.romWords ≤ (s.pc + 1).toNat →
      step s = .fault (.programOutOfRange (s.pc + 1)))

/-- R155: an instruction that does not transfer control ends at `pc` plus its size, modulo 2^16; the word 0x0000 always
decodes to `NOP`, which advances by 1 word in 1 cycle with no other change. -/
def Obligations.StraightLineAdvancesBySize : Prop :=
  (∀ (i : Instr) (s t : State), transfersControl i = false → exec i s = .next t →
    t.pc = s.pc + BitVec.ofNat 16 (encode i).length) ∧
  ∀ (hasRmw : Bool) (w2 : Word) (s : State), decodeWords hasRmw 0x0000 w2 = some .nop ∧
    exec .nop s = .next { s with pc := s.pc + 1, cycles := s.cycles + 1, instructions := s.instructions + 1 }

/-- R156, R580: cycles by the table, one instruction counted. -/
def Obligations.CyclesFollowTheTable : Prop :=
  ∀ (i : Instr) (s t : State), exec i s = .next t →
    t.instructions = s.instructions + 1 ∧
    ∃ extra, extra ≤ extraCycles i ∧ t.cycles = s.cycles + minCycles i + extra

/-- R28: whatever an instruction does, a flag the table does not give it stays, unless the instruction stores to `SREG`'s data
address, or a write chain takes a store of it and a binding owns that address (log entry 13). -/
def Obligations.FlagsChangeOnlyByTheTable : Prop :=
  ∀ (i : Instr) (s t : State), s.dm.wf = true →
    (writesData i = true → ∀ a ∈ dataAccesses i s, s.cfg.Spares a sregAddr) → exec i s = .next t →
    ∀ k : Fin 8, k ∉ flagsWritten i → t.flags.get k = s.flags.get k

/-- R521: which instructions raise which fault, and that the recorded address is out of range; `IN`, `OUT`, `SBI`, `CBI`,
`SBIC`, `SBIS` raise no data fault. -/
def Obligations.FaultsComeFromTheListedInstructions : Prop :=
  ∀ (i : Instr) (s : State), s.cfg.Legal →
    (∀ a, exec i s = .fault (.dataOutOfRange a) → mayFaultData i = true ∧ s.cfg.dataSize ≤ a.toNat) ∧
    (∀ a, exec i s = .fault (.programOutOfRange a) → mayFaultProgram i = true ∧ s.cfg.romWords ≤ a.toNat)

/-! ## Memory -/

/-- R64: the three arms of `MemRead`; a handled read answers a free value (U7, log entry 4), is recorded (log entry 12) and
changes no byte (log entry 13). -/
def Obligations.MemReadRoutes : Prop :=
  ∀ (s : State) (a : Word),
    (s.cfg.dataSize ≤ a.toNat → memRead s a = .fault (.dataOutOfRange a)) ∧
    (a.toNat < s.cfg.dataSize → s.cfg.readChained a.toNat = true →
      memRead s a = .next (Config.freeByte s.draws, { s with outputs := .ioRead a :: s.outputs, draws := s.draws + 1 })) ∧
    (a.toNat < s.cfg.dataSize → s.cfg.readChained a.toNat = false → memRead s a = .next (s.byte a.toNat, s)) ∧
    (s.cfg.readChained a.toNat = true ↔ 32 ≤ a.toNat ∧ a.toNat ≤ 255 ∧
      ∃ b ∈ s.cfg.bindings, b.onRead = true ∧ b.first ≤ a.toNat ∧ a.toNat ≤ b.last)

/-- R65, R70, R72: `MemWrite`: the offer and the veto before the bound check; a vetoed write changes no byte and raises no
fault; a write chain is invoked with the address and the byte, which the core does not store (the model's reading of
handlers and callouts: log entries 4, 12, 13 and 14). -/
def Obligations.MemWriteRoutes : Prop :=
  ∀ (s : State) (a : Word) (v : Byte), s.dm.wf = true →
    (s.cfg.dataSize ≤ a.toNat →
      memWrite s a v =
        if s.cfg.callouts.contains a.toNat && Config.freeVeto s.draws then
          .next { s with outputs := .writeOffer a v :: s.outputs, draws := s.draws + 1 }
        else .fault (.dataOutOfRange a)) ∧
    (a.toNat < s.cfg.dataSize → ∃ t, memWrite s a v = .next t ∧
      t = { s with dm := t.dm, outputs := t.outputs, draws := t.draws } ∧ WriteLeaves s t s.outputs s.draws a v) ∧
    (s.cfg.writeChained a.toNat = true ↔ 32 ≤ a.toNat ∧ a.toNat ≤ 255 ∧
      ∃ b ∈ s.cfg.bindings, b.onWrite = true ∧ b.first ≤ a.toNat ∧ a.toNat ≤ b.last)

/-! ## Interrupts and sleep -/

/-- R503, R504: what `irq_raise` and `irq_clear` do to the mask and the priority register. -/
def Obligations.RaiseAndClearRequests : Prop :=
  ∀ (s : State) (v : BitVec 5),
    (∃ mask : BitVec 32, (∀ j, j < 32 → mask.getLsbD j = (s.intPending.getLsbD j || decide (j = v.toNat))) ∧
      irqRaise s v =
        { s with
          intPending := mask
          intPrio := if v.toNat < s.intPrio.toNat then BitVec.ofNat 8 v.toNat else s.intPrio }) ∧
    (∃ mask : BitVec 32, (∀ j, j < 32 → mask.getLsbD j = (s.intPending.getLsbD j && !decide (j = v.toNat))) ∧
      irqClear s v = { s with intPending := mask, intPrio := recompute s.cfg.intRecompute mask })

/-- R505: `Recompute`: 255 for an empty mask, else the least or the greatest pending vector. -/
def Obligations.RecomputeFindsTheExtremePending : Prop :=
  ∀ (how : Recompute) (mask : BitVec 32),
    (mask = 0 → recompute how mask = 255) ∧
    (mask ≠ 0 →
      (recompute how mask).toNat < 32 ∧ mask.getLsbD (recompute how mask).toNat = true ∧
      ∀ j, j < 32 → mask.getLsbD j = true →
        match how with
        | .lowestFirst => (recompute how mask).toNat ≤ j
        | .highestFirst => j ≤ (recompute how mask).toNat)

/-- R506, R509: taking an interrupt: what is pushed, where control goes, what is cleared, what is emitted, and that nothing
else changes. The second push address is taken from the `SP` before the push (log entry 10); the events are recorded as log
entry 12 says. -/
def Obligations.ServiceTakesThePendingVector : Prop :=
  ∀ s : State, s.dm.wf = true →
    (s.flags.i = false ∨ s.intPending = 0 → service s = .next s) ∧
    (s.flags.i = true → s.intPending ≠ 0 → s.Reaches s.sp → s.Reaches (s.sp - 1) →
      ∃ (m : Memory 8) (mask : BitVec 32),
        (∀ j, j < 32 → mask.getLsbD j = (s.intPending.getLsbD j && !decide (j = s.intPrio.toNat))) ∧
        service s = .next
          { s with
            dm := m
            pc := BitVec.ofNat 16 (2 * s.intPrio.toNat)
            outputs := .intEntry s.intPrio :: .irqAck s.intPrio :: s.outputs
            intPending := mask
            intPrio := recompute s.cfg.intRecompute mask
            asleep := false } ∧
        ∀ a, m.get a = assign (pushedView s s.pc) sregAddr (pushedView s s.pc sregAddr &&& 0x7F) a)

/-- R509, R510, R312: `RETI` after an entry goes back to the pushed address, restores `SP` and `SREG` (I was set) and every
byte but the two stack bytes. -/
def Obligations.EntryThenRetiResumes : Prop :=
  ∀ s : State, s.dm.wf = true → StackClear s → s.sp.toNat ≠ sregAddr → (s.sp - 1).toNat ≠ sregAddr →
    s.flags.i = true → s.intPending ≠ 0 →
    ∃ t u : State, service s = .next t ∧ exec .reti t = .next u ∧
      u.pc = s.pc ∧ u.sp = s.sp ∧ u.sreg = s.sreg ∧
      ∀ a, a ≠ s.sp.toNat → a ≠ (s.sp - 1).toNat → u.byte a = s.byte a

/-- R158: an asleep step with no environment event (the schedule of log entry 3 is empty) and nothing to serve adds one
cycle and one tick and changes nothing else. -/
def Obligations.AsleepStepIdles : Prop :=
  ∀ s : State, s.asleep = true → s.schedule = [] → (s.flags.i = false ∨ s.intPending = 0) →
    step s = .next { s with cycles := s.cycles + 1, ticks := s.ticks + 1 }

/-- R535: sleep is entered by `SLEEP` only; an asleep step, whatever the environment does in its tick phase (the schedule of
log entry 3), either idles, asleep still at the same `pc`, or takes the interrupt of R506, which needs I = 1 and a pending
vector and pushes that `pc`; in both cases one cycle is added and no instruction counted. Without a binding, I = 0 keeps the
core asleep and the data space as it was. -/
def Obligations.SleepIsLeftOnlyByInterrupt : Prop :=
  (∀ (i : Instr) (s t : State), s.asleep = false → exec i s = .next t → t.asleep = true → i = .sleep) ∧
  ∀ s t : State, s.asleep = true → step s = .next t →
    let u := tickPhase 1 { s with cycles := s.cycles + 1 }
    u.pc = s.pc ∧ t.cycles = s.cycles + 1 ∧ t.ticks = s.ticks + 1 ∧ t.instructions = s.instructions ∧
    ((t = u ∧ t.asleep = true ∧ t.pc = s.pc ∧ (u.flags.i = false ∨ u.intPending = 0)) ∨
      (u.flags.i = true ∧ u.intPending ≠ 0 ∧ takeInterrupt u = .next t ∧ t.asleep = false ∧
        t.pc = BitVec.ofNat 16 (2 * u.intPrio.toNat))) ∧
    (s.cfg.bindings = [] → s.flags.i = false → t.asleep = true ∧ t.dm = s.dm)

/-! ## Whole-machine invariants -/

/-- The invariant of the machine is kept by every step, from every state that meets it: a legal configuration, canonical
memories within their bounds, a legal interrupt controller (R37, R502), as many ticks as cycles (R582, log entry 12). -/
def Obligations.StepKeepsInvariant : Prop := ∀ s t : State, s.Inv → step s = .next t → t.Inv

/-- Construction meets the invariant in every legal configuration (log entry 1), whatever is loaded (log entry 6) and whatever
the init callbacks write (log entry 13). -/
def Obligations.ResetMeetsInvariant : Prop := ∀ (c : Config) (image : Image), c.Legal → (State.construct c image).Inv

/-- R84, R40: no step writes program memory or the configuration. -/
def Obligations.ProgramAndConfigurationAreFixed : Prop :=
  ∀ s t : State, step s = .next t → t.rom = s.rom ∧ t.cfg = s.cfg

/-- R582, R157, R583: a step gives exactly as many ticks as it adds cycles, 1 to 4 of them; interrupt entry adds none. The
ticks are counted in a field of the model's own (log entry 12). -/
def Obligations.TicksEqualCyclesOfTheStep : Prop :=
  ∀ s t : State, step s = .next t →
    ∃ n, 1 ≤ n ∧ n ≤ 4 ∧ t.cycles = s.cycles + n ∧ t.ticks = s.ticks + n ∧
      t.instructions = s.instructions + (if s.asleep then 0 else 1)

/-- The last value a list of writes gives the address. -/
def lastWrite {w : Nat} (writes : List (Nat × BitVec w)) (a : Nat) : Option (BitVec w) :=
  (writes.reverse.find? fun x => x.1 == a).map Prod.snd

/-- R42, R560, R563, R71: what construction leaves, for every configuration (log entry 1) and everything loaded (log entry 6):
the control state; each byte as the init callbacks leave it (log entry 13), else as the loader does, else `SP_INIT` or zero;
each program word as loaded, else zero; so with nothing loaded and no binding, every register, `SREG` and RAM are zero. -/
def Obligations.ResetValues : Prop :=
  ∀ (c : Config) (image : Image),
    let s := State.construct c image
    let zeroed := fun a => if a = splAddr then c.spInit.lo else if a = sphAddr then c.spInit.hi else 0
    s.pc = 0 ∧ s.cycles = 0 ∧ s.instructions = 0 ∧ s.asleep = false ∧ s.intPrio = 255 ∧ s.intPending = 0 ∧
    s.cfg = c ∧ s.outputs = [] ∧ s.ticks = 0 ∧
    (∀ a, a < c.dataSize → s.byte a = ((lastWrite c.initWrites a).or (lastWrite image.data a)).getD (zeroed a)) ∧
    (∀ a, a < c.romWords → s.rom.get a = (lastWrite image.program a).getD 0) ∧
    (c.bindings = [] → image.data = [] → s.sp = c.spInit ∧ (∀ d : Reg, s.reg d = 0) ∧ s.sreg = 0 ∧
      ∀ a, a ≠ splAddr → a ≠ sphAddr → s.byte a = 0)
end

