-- ==== Sys2Proof/Laws/Memory.lean ====
section
/-! SUPPORT. The laws of sparse storage: every operation keeps the canonical form, a read after a write, and equal contents
are equal lists. -/

namespace Sys2Proof.Machine.Memory

variable {w : Nat} {m : Memory w}

@[simp] theorem get_nil (a : Nat) : Memory.get ([] : Memory w) a = 0 := rfl

@[simp] theorem wf_nil : Memory.wf ([] : Memory w) = true := rfl

theorem wfFrom_mono {lo lo' : Nat} (h : lo' ≤ lo) (hm : m.wfFrom lo = true) : m.wfFrom lo' = true := by
  cases m with
  | nil => rfl
  | cons c t =>
    simp only [wfFrom, Bool.and_eq_true, decide_eq_true_eq] at hm ⊢
    exact ⟨⟨by omega, hm.1.2⟩, hm.2⟩

theorem wf_of_wfFrom {lo : Nat} (hm : m.wfFrom lo = true) : m.wf = true := wfFrom_mono (Nat.zero_le lo) hm

/-- Below the first possible address nothing is listed. -/
theorem get_of_lt {lo a : Nat} (hm : m.wfFrom lo = true) (h : a < lo) : m.get a = 0 := by
  induction m generalizing lo with
  | nil => rfl
  | cons c t ih =>
    simp only [wfFrom, Bool.and_eq_true, decide_eq_true_eq] at hm
    have hne : c.1 ≠ a := by omega
    simpa [get, hne] using ih hm.2 (by omega)

theorem cell_wfFrom {lo a : Nat} {v : BitVec w} (h : lo ≤ a) (hm : m.wfFrom (a + 1) = true) :
    (cell a v m).wfFrom lo = true := by
  unfold cell
  split
  · exact wfFrom_mono (by omega) hm
  · simp_all [wfFrom]

theorem set_wfFrom {lo a : Nat} {v : BitVec w} (h : lo ≤ a) (hm : m.wfFrom lo = true) :
    (m.set a v).wfFrom lo = true := by
  induction m generalizing lo with
  | nil => exact cell_wfFrom h rfl
  | cons c t ih =>
    simp only [wfFrom, Bool.and_eq_true, decide_eq_true_eq] at hm
    unfold set
    split
    · exact cell_wfFrom h (by simp [wfFrom, hm]; omega)
    · split
      · next heq => exact cell_wfFrom h (heq ▸ hm.2)
      · simp only [wfFrom, Bool.and_eq_true, decide_eq_true_eq]
        exact ⟨hm.1, ih (by omega) hm.2⟩

/-- A write keeps the canonical form. -/
@[simp] theorem set_wf {a : Nat} {v : BitVec w} (hm : m.wf = true) : (m.set a v).wf = true :=
  set_wfFrom (Nat.zero_le a) hm

theorem get_cell {a b : Nat} {v : BitVec w} (hm : m.wfFrom (a + 1) = true) :
    (cell a v m).get b = if b = a then v else m.get b := by
  unfold cell
  split
  · next h0 =>
    split
    · next hb => rw [h0, hb]; exact get_of_lt hm (by omega)
    · rfl
  · simp only [get, eq_comm]

theorem get_set_from {lo a b : Nat} {v : BitVec w} (hm : m.wfFrom lo = true) :
    (m.set a v).get b = if b = a then v else m.get b := by
  induction m generalizing lo with
  | nil => exact get_cell rfl
  | cons c t ih =>
    simp only [wfFrom, Bool.and_eq_true, decide_eq_true_eq] at hm
    unfold set
    split
    · exact get_cell (by simp [wfFrom, hm]; omega)
    · split
      · next heq =>
        rw [get_cell (heq ▸ hm.2)]
        by_cases hb : b = a
        · simp [hb]
        · simp [hb, get, show c.1 ≠ b by omega]
      · by_cases hc : c.1 = b
        · simp [get, hc, show b ≠ a by omega]
        · simp only [get, hc, if_false]
          exact ih hm.2

/-- A read after a write: the value written at that address, the old value at every other. -/
@[simp] theorem get_set {a b : Nat} {v : BitVec w} (hm : m.wf = true) :
    (m.set a v).get b = if b = a then v else m.get b := get_set_from hm

@[simp] theorem below_nil (n : Nat) : below n ([] : Memory w) = true := rfl

@[simp] theorem set_below {n a : Nat} {v : BitVec w} (h : a < n) (hm : m.below n = true) :
    (m.set a v).below n = true := by
  have hcell : ∀ t : Memory w, t.below n = true → (cell a v t).below n = true := by
    intro t ht
    unfold cell
    split
    · exact ht
    · simpa [below, h] using ht
  induction m with
  | nil => exact hcell [] rfl
  | cons c t ih =>
    have hc : c.1 < n ∧ below n t = true := by simpa [below] using hm
    unfold set
    split
    · exact hcell _ hm
    · split
      · exact hcell _ hc.2
      · simpa [below, hc.1] using ih hc.2

/-- Outside the bound a memory reads as unlisted. -/
theorem get_of_below {n a : Nat} (hm : m.below n = true) (h : n ≤ a) : m.get a = 0 := by
  induction m with
  | nil => rfl
  | cons c t ih =>
    have hc : c.1 < n ∧ below n t = true := by simpa [below] using hm
    simpa [get, show c.1 ≠ a by omega] using ih hc.2

/-! ### Writing a list -/

variable {l : List (Nat × BitVec w)}

@[simp] theorem setAll_nil (m : Memory w) : m.setAll [] = m := rfl

@[simp] theorem setAll_cons (m : Memory w) (c : Nat × BitVec w) :
    m.setAll (c :: l) = (m.set c.1 c.2).setAll l := rfl

/-- Writing a list keeps the canonical form. -/
@[simp] theorem setAll_wf (hm : m.wf = true) : (m.setAll l).wf = true := by
  induction l generalizing m with
  | nil => exact hm
  | cons c l ih => exact ih (set_wf hm)

@[simp] theorem setAll_below {n : Nat} (h : ∀ c ∈ l, c.1 < n) (hm : m.below n = true) : (m.setAll l).below n = true := by
  induction l generalizing m with
  | nil => exact hm
  | cons c l ih =>
    exact ih (fun x hx => h x (List.mem_cons_of_mem _ hx)) (set_below (h c List.mem_cons_self) hm)

/-- An address the list does not name keeps its value. -/
theorem get_setAll_of_notMem {a : Nat} (hm : m.wf = true) (h : ∀ c ∈ l, c.1 ≠ a) : (m.setAll l).get a = m.get a := by
  induction l generalizing m with
  | nil => rfl
  | cons c l ih =>
    rw [setAll_cons, ih (set_wf hm) fun x hx => h x (List.mem_cons_of_mem _ hx), get_set hm,
      if_neg (h c List.mem_cons_self).symm]

end Sys2Proof.Machine.Memory
end

