-- ==== Sys2Proof/Laws/State.lean ====
section
/-! SUPPORT. One lemma per field per update of the state, and one per view per write of the data space, so that no later
proof unfolds a record update or a chain of writes. -/

namespace Sys2Proof.Machine.State

variable (s : State)

/-! ### Fields -/

@[simp] theorem setByte_dm (a : Nat) (v : Byte) : (s.setByte a v).dm = s.dm.set a v := rfl
@[simp] theorem setByte_rom (a : Nat) (v : Byte) : (s.setByte a v).rom = s.rom := rfl
@[simp] theorem setByte_pc (a : Nat) (v : Byte) : (s.setByte a v).pc = s.pc := rfl
@[simp] theorem setByte_cycles (a : Nat) (v : Byte) : (s.setByte a v).cycles = s.cycles := rfl
@[simp] theorem setByte_instructions (a : Nat) (v : Byte) : (s.setByte a v).instructions = s.instructions := rfl
@[simp] theorem setByte_asleep (a : Nat) (v : Byte) : (s.setByte a v).asleep = s.asleep := rfl
@[simp] theorem setByte_intPrio (a : Nat) (v : Byte) : (s.setByte a v).intPrio = s.intPrio := rfl
@[simp] theorem setByte_intPending (a : Nat) (v : Byte) : (s.setByte a v).intPending = s.intPending := rfl
@[simp] theorem setByte_ticks (a : Nat) (v : Byte) : (s.setByte a v).ticks = s.ticks := rfl
@[simp] theorem setByte_outputs (a : Nat) (v : Byte) : (s.setByte a v).outputs = s.outputs := rfl
@[simp] theorem setByte_schedule (a : Nat) (v : Byte) : (s.setByte a v).schedule = s.schedule := rfl
@[simp] theorem setByte_draws (a : Nat) (v : Byte) : (s.setByte a v).draws = s.draws := rfl
@[simp] theorem setByte_cfg (a : Nat) (v : Byte) : (s.setByte a v).cfg = s.cfg := rfl

@[simp] theorem setReg_dm (d : Reg) (v : Byte) : (s.setReg d v).dm = s.dm.set d.val v := rfl
@[simp] theorem setReg_rom (d : Reg) (v : Byte) : (s.setReg d v).rom = s.rom := rfl
@[simp] theorem setReg_pc (d : Reg) (v : Byte) : (s.setReg d v).pc = s.pc := rfl
@[simp] theorem setReg_cycles (d : Reg) (v : Byte) : (s.setReg d v).cycles = s.cycles := rfl
@[simp] theorem setReg_instructions (d : Reg) (v : Byte) : (s.setReg d v).instructions = s.instructions := rfl
@[simp] theorem setReg_asleep (d : Reg) (v : Byte) : (s.setReg d v).asleep = s.asleep := rfl
@[simp] theorem setReg_intPrio (d : Reg) (v : Byte) : (s.setReg d v).intPrio = s.intPrio := rfl
@[simp] theorem setReg_intPending (d : Reg) (v : Byte) : (s.setReg d v).intPending = s.intPending := rfl
@[simp] theorem setReg_ticks (d : Reg) (v : Byte) : (s.setReg d v).ticks = s.ticks := rfl
@[simp] theorem setReg_outputs (d : Reg) (v : Byte) : (s.setReg d v).outputs = s.outputs := rfl
@[simp] theorem setReg_schedule (d : Reg) (v : Byte) : (s.setReg d v).schedule = s.schedule := rfl
@[simp] theorem setReg_draws (d : Reg) (v : Byte) : (s.setReg d v).draws = s.draws := rfl
@[simp] theorem setReg_cfg (d : Reg) (v : Byte) : (s.setReg d v).cfg = s.cfg := rfl

@[simp] theorem setPair_dm (d : Reg) (v : Word) : (s.setPair d v).dm = (s.dm.set d.val v.lo).set (d.val + 1) v.hi := rfl
@[simp] theorem setPair_rom (d : Reg) (v : Word) : (s.setPair d v).rom = s.rom := rfl
@[simp] theorem setPair_pc (d : Reg) (v : Word) : (s.setPair d v).pc = s.pc := rfl
@[simp] theorem setPair_cycles (d : Reg) (v : Word) : (s.setPair d v).cycles = s.cycles := rfl
@[simp] theorem setPair_instructions (d : Reg) (v : Word) : (s.setPair d v).instructions = s.instructions := rfl
@[simp] theorem setPair_asleep (d : Reg) (v : Word) : (s.setPair d v).asleep = s.asleep := rfl
@[simp] theorem setPair_intPrio (d : Reg) (v : Word) : (s.setPair d v).intPrio = s.intPrio := rfl
@[simp] theorem setPair_intPending (d : Reg) (v : Word) : (s.setPair d v).intPending = s.intPending := rfl
@[simp] theorem setPair_ticks (d : Reg) (v : Word) : (s.setPair d v).ticks = s.ticks := rfl
@[simp] theorem setPair_outputs (d : Reg) (v : Word) : (s.setPair d v).outputs = s.outputs := rfl
@[simp] theorem setPair_schedule (d : Reg) (v : Word) : (s.setPair d v).schedule = s.schedule := rfl
@[simp] theorem setPair_draws (d : Reg) (v : Word) : (s.setPair d v).draws = s.draws := rfl
@[simp] theorem setPair_cfg (d : Reg) (v : Word) : (s.setPair d v).cfg = s.cfg := rfl

@[simp] theorem setFlags_dm (f : Flags) : (s.setFlags f).dm = s.dm.set sregAddr f.toByte := rfl
@[simp] theorem setFlags_rom (f : Flags) : (s.setFlags f).rom = s.rom := rfl
@[simp] theorem setFlags_pc (f : Flags) : (s.setFlags f).pc = s.pc := rfl
@[simp] theorem setFlags_cycles (f : Flags) : (s.setFlags f).cycles = s.cycles := rfl
@[simp] theorem setFlags_instructions (f : Flags) : (s.setFlags f).instructions = s.instructions := rfl
@[simp] theorem setFlags_asleep (f : Flags) : (s.setFlags f).asleep = s.asleep := rfl
@[simp] theorem setFlags_intPrio (f : Flags) : (s.setFlags f).intPrio = s.intPrio := rfl
@[simp] theorem setFlags_intPending (f : Flags) : (s.setFlags f).intPending = s.intPending := rfl
@[simp] theorem setFlags_ticks (f : Flags) : (s.setFlags f).ticks = s.ticks := rfl
@[simp] theorem setFlags_outputs (f : Flags) : (s.setFlags f).outputs = s.outputs := rfl
@[simp] theorem setFlags_schedule (f : Flags) : (s.setFlags f).schedule = s.schedule := rfl
@[simp] theorem setFlags_draws (f : Flags) : (s.setFlags f).draws = s.draws := rfl
@[simp] theorem setFlags_cfg (f : Flags) : (s.setFlags f).cfg = s.cfg := rfl

@[simp] theorem setSp_dm (v : Word) : (s.setSp v).dm = (s.dm.set splAddr v.lo).set sphAddr v.hi := rfl
@[simp] theorem setSp_rom (v : Word) : (s.setSp v).rom = s.rom := rfl
@[simp] theorem setSp_pc (v : Word) : (s.setSp v).pc = s.pc := rfl
@[simp] theorem setSp_cycles (v : Word) : (s.setSp v).cycles = s.cycles := rfl
@[simp] theorem setSp_instructions (v : Word) : (s.setSp v).instructions = s.instructions := rfl
@[simp] theorem setSp_asleep (v : Word) : (s.setSp v).asleep = s.asleep := rfl
@[simp] theorem setSp_intPrio (v : Word) : (s.setSp v).intPrio = s.intPrio := rfl
@[simp] theorem setSp_intPending (v : Word) : (s.setSp v).intPending = s.intPending := rfl
@[simp] theorem setSp_ticks (v : Word) : (s.setSp v).ticks = s.ticks := rfl
@[simp] theorem setSp_outputs (v : Word) : (s.setSp v).outputs = s.outputs := rfl
@[simp] theorem setSp_schedule (v : Word) : (s.setSp v).schedule = s.schedule := rfl
@[simp] theorem setSp_draws (v : Word) : (s.setSp v).draws = s.draws := rfl
@[simp] theorem setSp_cfg (v : Word) : (s.setSp v).cfg = s.cfg := rfl

@[simp] theorem emit_dm (o : Output) : (s.emit o).dm = s.dm := rfl
@[simp] theorem emit_rom (o : Output) : (s.emit o).rom = s.rom := rfl
@[simp] theorem emit_pc (o : Output) : (s.emit o).pc = s.pc := rfl
@[simp] theorem emit_cycles (o : Output) : (s.emit o).cycles = s.cycles := rfl
@[simp] theorem emit_instructions (o : Output) : (s.emit o).instructions = s.instructions := rfl
@[simp] theorem emit_asleep (o : Output) : (s.emit o).asleep = s.asleep := rfl
@[simp] theorem emit_intPrio (o : Output) : (s.emit o).intPrio = s.intPrio := rfl
@[simp] theorem emit_intPending (o : Output) : (s.emit o).intPending = s.intPending := rfl
@[simp] theorem emit_ticks (o : Output) : (s.emit o).ticks = s.ticks := rfl
@[simp] theorem emit_outputs (o : Output) : (s.emit o).outputs = o :: s.outputs := rfl
@[simp] theorem emit_schedule (o : Output) : (s.emit o).schedule = s.schedule := rfl
@[simp] theorem emit_draws (o : Output) : (s.emit o).draws = s.draws := rfl
@[simp] theorem emit_cfg (o : Output) : (s.emit o).cfg = s.cfg := rfl

@[simp] theorem retire_dm (p : Word) (n : Nat) : (s.retire p n).dm = s.dm := rfl
@[simp] theorem retire_rom (p : Word) (n : Nat) : (s.retire p n).rom = s.rom := rfl
@[simp] theorem retire_pc (p : Word) (n : Nat) : (s.retire p n).pc = p := rfl
@[simp] theorem retire_cycles (p : Word) (n : Nat) : (s.retire p n).cycles = s.cycles + n := rfl
@[simp] theorem retire_instructions (p : Word) (n : Nat) : (s.retire p n).instructions = s.instructions + 1 := rfl
@[simp] theorem retire_asleep (p : Word) (n : Nat) : (s.retire p n).asleep = s.asleep := rfl
@[simp] theorem retire_intPrio (p : Word) (n : Nat) : (s.retire p n).intPrio = s.intPrio := rfl
@[simp] theorem retire_intPending (p : Word) (n : Nat) : (s.retire p n).intPending = s.intPending := rfl
@[simp] theorem retire_ticks (p : Word) (n : Nat) : (s.retire p n).ticks = s.ticks := rfl
@[simp] theorem retire_outputs (p : Word) (n : Nat) : (s.retire p n).outputs = s.outputs := rfl
@[simp] theorem retire_schedule (p : Word) (n : Nat) : (s.retire p n).schedule = s.schedule := rfl
@[simp] theorem retire_draws (p : Word) (n : Nat) : (s.retire p n).draws = s.draws := rfl
@[simp] theorem retire_cfg (p : Word) (n : Nat) : (s.retire p n).cfg = s.cfg := rfl

@[simp] theorem retireNext_dm (n : Nat) : (s.retireNext n).dm = s.dm := rfl
@[simp] theorem retireNext_rom (n : Nat) : (s.retireNext n).rom = s.rom := rfl
@[simp] theorem retireNext_pc (n : Nat) : (s.retireNext n).pc = s.pc + 1 := rfl
@[simp] theorem retireNext_cycles (n : Nat) : (s.retireNext n).cycles = s.cycles + n := rfl
@[simp] theorem retireNext_instructions (n : Nat) : (s.retireNext n).instructions = s.instructions + 1 := rfl
@[simp] theorem retireNext_asleep (n : Nat) : (s.retireNext n).asleep = s.asleep := rfl
@[simp] theorem retireNext_intPrio (n : Nat) : (s.retireNext n).intPrio = s.intPrio := rfl
@[simp] theorem retireNext_intPending (n : Nat) : (s.retireNext n).intPending = s.intPending := rfl
@[simp] theorem retireNext_ticks (n : Nat) : (s.retireNext n).ticks = s.ticks := rfl
@[simp] theorem retireNext_outputs (n : Nat) : (s.retireNext n).outputs = s.outputs := rfl
@[simp] theorem retireNext_schedule (n : Nat) : (s.retireNext n).schedule = s.schedule := rfl
@[simp] theorem retireNext_draws (n : Nat) : (s.retireNext n).draws = s.draws := rfl
@[simp] theorem retireNext_cfg (n : Nat) : (s.retireNext n).cfg = s.cfg := rfl

@[simp] theorem drawn_dm : s.drawn.dm = s.dm := rfl
@[simp] theorem drawn_rom : s.drawn.rom = s.rom := rfl
@[simp] theorem drawn_pc : s.drawn.pc = s.pc := rfl
@[simp] theorem drawn_cycles : s.drawn.cycles = s.cycles := rfl
@[simp] theorem drawn_instructions : s.drawn.instructions = s.instructions := rfl
@[simp] theorem drawn_asleep : s.drawn.asleep = s.asleep := rfl
@[simp] theorem drawn_intPrio : s.drawn.intPrio = s.intPrio := rfl
@[simp] theorem drawn_intPending : s.drawn.intPending = s.intPending := rfl
@[simp] theorem drawn_ticks : s.drawn.ticks = s.ticks := rfl
@[simp] theorem drawn_outputs : s.drawn.outputs = s.outputs := rfl
@[simp] theorem drawn_schedule : s.drawn.schedule = s.schedule := rfl
@[simp] theorem drawn_draws : s.drawn.draws = s.draws + 1 := rfl
@[simp] theorem drawn_cfg : s.drawn.cfg = s.cfg := rfl

@[simp] theorem freeIoBytes_rom : s.freeIoBytes.rom = s.rom := rfl
@[simp] theorem freeIoBytes_pc : s.freeIoBytes.pc = s.pc := rfl
@[simp] theorem freeIoBytes_cycles : s.freeIoBytes.cycles = s.cycles := rfl
@[simp] theorem freeIoBytes_instructions : s.freeIoBytes.instructions = s.instructions := rfl
@[simp] theorem freeIoBytes_asleep : s.freeIoBytes.asleep = s.asleep := rfl
@[simp] theorem freeIoBytes_intPrio : s.freeIoBytes.intPrio = s.intPrio := rfl
@[simp] theorem freeIoBytes_intPending : s.freeIoBytes.intPending = s.intPending := rfl
@[simp] theorem freeIoBytes_ticks : s.freeIoBytes.ticks = s.ticks := rfl
@[simp] theorem freeIoBytes_outputs : s.freeIoBytes.outputs = s.outputs := rfl
@[simp] theorem freeIoBytes_schedule : s.freeIoBytes.schedule = s.schedule := rfl
@[simp] theorem freeIoBytes_cfg : s.freeIoBytes.cfg = s.cfg := rfl

/-! ### Views of the data space -/

theorem dm_get (a : Nat) : s.dm.get a = s.byte a := rfl

theorem reg_eq (d : Reg) : s.reg d = s.byte d.val := rfl

theorem pair_eq (d : Reg) : s.pair d = s.byte (d.val + 1) ++ s.byte d.val := rfl

theorem sp_eq : s.sp = s.byte sphAddr ++ s.byte splAddr := rfl

theorem flags_eq : s.flags = Flags.ofByte (s.byte sregAddr) := rfl

@[simp] theorem byte_drawn (a : Nat) : s.drawn.byte a = s.byte a := rfl
@[simp] theorem byte_emit (o : Output) (a : Nat) : (s.emit o).byte a = s.byte a := rfl
@[simp] theorem byte_retire (p : Word) (n a : Nat) : (s.retire p n).byte a = s.byte a := rfl
@[simp] theorem byte_retireNext (n a : Nat) : (s.retireNext n).byte a = s.byte a := rfl

variable {s}

theorem byte_setByte (h : s.dm.wf = true) (a b : Nat) (v : Byte) :
    (s.setByte a v).byte b = if b = a then v else s.byte b := Memory.get_set h

/-- R70: a byte that no binding owns is as before a handled write. -/
theorem byte_freeIoBytes {b : Nat} (h : s.dm.wf = true) (ho : s.cfg.owned b = false) : s.freeIoBytes.byte b = s.byte b := by
  refine Memory.get_setAll_of_notMem h fun c hc => ?_
  obtain ⟨k, hk, rfl⟩ := List.mem_mapIdx.mp hc
  rintro rfl
  have := (List.mem_filter.mp (List.getElem_mem hk)).2
  simp_all

theorem byte_setReg (h : s.dm.wf = true) (d : Reg) (b : Nat) (v : Byte) :
    (s.setReg d v).byte b = if b = d.val then v else s.byte b := Memory.get_set h

theorem byte_setPair (h : s.dm.wf = true) (d : Reg) (b : Nat) (v : Word) :
    (s.setPair d v).byte b = if b = d.val + 1 then v.hi else if b = d.val then v.lo else s.byte b := by
  rw [setPair, byte_setByte (Memory.set_wf h), byte_setByte h]

theorem byte_setFlags (h : s.dm.wf = true) (f : Flags) (b : Nat) :
    (s.setFlags f).byte b = if b = sregAddr then f.toByte else s.byte b := Memory.get_set h

theorem byte_setSp (h : s.dm.wf = true) (b : Nat) (v : Word) :
    (s.setSp v).byte b = if b = sphAddr then v.hi else if b = splAddr then v.lo else s.byte b := by
  rw [setSp, byte_setByte (Memory.set_wf h), byte_setByte h]

theorem hi_append_lo (v : Word) : v.hi ++ v.lo = v := by
  ext i hi
  simp only [BitVec.getElem_append, BitVec.getElem_extractLsb']
  by_cases h : i < 8
  · simp [h, BitVec.getLsbD_eq_getElem hi]
  · simp [h, show 8 + (i - 8) = i by omega, BitVec.getLsbD_eq_getElem hi]

/-- Reading back the stack pointer just written. -/
theorem sp_setSp (h : s.dm.wf = true) (v : Word) : (s.setSp v).sp = v := by
  simp [sp_eq, byte_setSp h, sphAddr, splAddr, hi_append_lo]

/-- Reading back a register pair just written. -/
theorem pair_setPair (h : s.dm.wf = true) (d : Reg) (v : Word) : (s.setPair d v).pair d = v := by
  simp [pair_eq, byte_setPair h, hi_append_lo]

end Sys2Proof.Machine.State

namespace Sys2Proof.Machine.Flags

/-- Packing and unpacking the status byte lose nothing. -/
@[simp] theorem ofByte_toByte (f : Flags) : ofByte f.toByte = f := by
  obtain ⟨c, z, n, v, s, h, t, i⟩ := f
  cases c <;> cases z <;> cases n <;> cases v <;> cases s <;> cases h <;> cases t <;> cases i <;> rfl

/-- R27: no bit of `SREG` is reserved. -/
@[simp] theorem toByte_ofByte (b : Byte) : (ofByte b).toByte = b := by
  revert b
  decide

end Sys2Proof.Machine.Flags

namespace Sys2Proof.Machine.State

/-- Reading back the flags just written. -/
theorem flags_setFlags {s : State} (h : s.dm.wf = true) (f : Flags) : (s.setFlags f).flags = f := by
  simp [flags_eq, byte_setFlags h]

end Sys2Proof.Machine.State
end

