-- ==== Sys2Proof/Laws/Ops.lean ====
section
/-! SUPPORT. What each shared operation can do, said once. A caller cites these lemmas and does not unfold the dispatch. -/

namespace Sys2Proof.Machine

/-! ### Sequencing -/

@[simp] theorem Res.bind_next {α β : Type} (a : α) (f : α → Res β) : Res.bind (.next a) f = f a := rfl
@[simp] theorem Res.bind_fault {α β : Type} (e : Fault) (f : α → Res β) : Res.bind (.fault e) f = .fault e := rfl
@[simp] theorem Res.bind_refused {α β : Type} (e : Refusal) (f : α → Res β) : Res.bind (.refused e) f = .refused e := rfl

/-- A sequence goes on only if its first part does. -/
theorem Res.bind_eq_next {α β : Type} {r : Res α} {f : α → Res β} {b : β} :
    Res.bind r f = .next b ↔ ∃ a, r = .next a ∧ f a = .next b := by
  cases r <;> simp

/-- Where a sequence faults. -/
theorem Res.bind_eq_fault {α β : Type} {r : Res α} {f : α → Res β} {e : Fault} :
    Res.bind r f = .fault e ↔ r = .fault e ∨ ∃ a, r = .next a ∧ f a = .fault e := by
  cases r <;> simp

/-- Where a sequence is refused. -/
theorem Res.bind_eq_refused {α β : Type} {r : Res α} {f : α → Res β} {e : Refusal} :
    Res.bind r f = .refused e ↔ r = .refused e ∨ ∃ a, r = .next a ∧ f a = .refused e := by
  cases r <;> simp

/-! ### What a data access may change -/

/-- `t` is `s` with another data space in canonical form, another count of free values and further output events: all a data
access changes. -/
structure DataStep (s t : State) : Prop where
  same : t = { s with dm := t.dm, draws := t.draws, outputs := t.outputs }
  wf : s.dm.wf = true → t.dm.wf = true
  below : s.cfg.Legal → s.dm.below s.cfg.dataSize = true → t.dm.below s.cfg.dataSize = true

namespace DataStep

variable {s t u : State}

theorem refl : DataStep s s := ⟨rfl, id, fun _ => id⟩

theorem cfg (h : DataStep s t) : t.cfg = s.cfg := by rw [h.same]
theorem rom (h : DataStep s t) : t.rom = s.rom := by rw [h.same]
theorem pc (h : DataStep s t) : t.pc = s.pc := by rw [h.same]
theorem cycles (h : DataStep s t) : t.cycles = s.cycles := by rw [h.same]
theorem instructions (h : DataStep s t) : t.instructions = s.instructions := by rw [h.same]
theorem asleep (h : DataStep s t) : t.asleep = s.asleep := by rw [h.same]
theorem intPrio (h : DataStep s t) : t.intPrio = s.intPrio := by rw [h.same]
theorem intPending (h : DataStep s t) : t.intPending = s.intPending := by rw [h.same]
theorem ticks (h : DataStep s t) : t.ticks = s.ticks := by rw [h.same]
theorem schedule (h : DataStep s t) : t.schedule = s.schedule := by rw [h.same]

theorem trans (h : DataStep s t) (k : DataStep t u) : DataStep s u := by
  refine ⟨?_, k.wf ∘ h.wf, fun hl hb => ?_⟩
  · rw [k.same, h.same]
  · have := k.below (by rw [h.cfg]; exact hl) (by rw [h.cfg]; exact h.below hl hb)
    rwa [h.cfg] at this

/-- A free value is drawn. -/
theorem draw : DataStep s s.drawn := ⟨rfl, id, fun _ => id⟩

/-- An output event is emitted. -/
theorem emit {o : Output} : DataStep s (s.emit o) := ⟨rfl, id, fun _ => id⟩

/-- A byte of the data space is written. -/
theorem setByte {a : Nat} {v : Byte} (h : a < s.cfg.dataSize) : DataStep s (s.setByte a v) :=
  ⟨rfl, Memory.set_wf, fun _ => Memory.set_below h⟩

/-- R70: what the environment may change after a handled write. -/
theorem freeIoBytes : DataStep s s.freeIoBytes := by
  refine ⟨rfl, Memory.setAll_wf, fun hl => Memory.setAll_below fun c hc => ?_⟩
  obtain ⟨k, hk, rfl⟩ := List.mem_mapIdx.mp hc
  have := (List.mem_range'_1.mp (List.mem_filter.mp (List.getElem_mem hk)).1).2
  have := hl.2.2.1
  dsimp only
  omega

end DataStep

/-! ### The dispatch -/

/-- R64: the three outcomes of a data read. -/
theorem memRead_cases (s : State) (a : Word) :
    (s.cfg.dataSize ≤ a.toNat ∧ memRead s a = .fault (.dataOutOfRange a)) ∨
    (a.toNat < s.cfg.dataSize ∧ s.cfg.readChained a.toNat = true ∧
      memRead s a = .next (Config.freeByte s.draws, (s.emit (.ioRead a)).drawn)) ∨
    (a.toNat < s.cfg.dataSize ∧ s.cfg.readChained a.toNat = false ∧ memRead s a = .next (s.byte a.toNat, s)) := by
  unfold memRead
  by_cases h : s.cfg.dataSize ≤ a.toNat
  · simp [h]
  · cases s.cfg.readChained a.toNat <;> simp [h] <;> omega

/-- A data read changes no byte; it may draw a free value and emit an event. -/
theorem memRead_next {s t : State} {a : Word} {v : Byte} (h : memRead s a = .next (v, t)) :
    a.toNat < s.cfg.dataSize ∧ DataStep s t ∧ t.dm = s.dm := by
  rcases memRead_cases s a with ⟨-, e⟩ | ⟨hlt, -, e⟩ | ⟨hlt, -, e⟩ <;> rw [e] at h
  · cases h
  · cases h; exact ⟨hlt, DataStep.emit.trans .draw, rfl⟩
  · cases h; exact ⟨hlt, .refl, rfl⟩

/-- R77, R73: plain storage answers its stored byte and nothing changes. -/
theorem memRead_plain {s : State} {a : Word} (h : a.toNat < s.cfg.dataSize) (hc : s.cfg.readChained a.toNat = false) :
    memRead s a = .next (s.byte a.toNat, s) := by
  simp [memRead, hc, Nat.not_le.mpr h]

/-- R66: a read outside the data space is the fatal fault, with its address. -/
theorem memRead_out {s : State} {a : Word} (h : s.cfg.dataSize ≤ a.toNat) :
    memRead s a = .fault (.dataOutOfRange a) := by
  simp [memRead, h]

/-- A data read is never refused. -/
theorem memRead_not_refused (s : State) (a : Word) (e : Refusal) : memRead s a ≠ .refused e := by
  rcases memRead_cases s a with ⟨-, h⟩ | ⟨-, -, h⟩ | ⟨-, -, h⟩ <;> rw [h] <;> exact fun k => nomatch k

/-- R65 after the veto: the three outcomes of storing a byte. -/
theorem storeByte_cases (s : State) (a : Word) (v : Byte) :
    (s.cfg.dataSize ≤ a.toNat ∧ storeByte s a v = .fault (.dataOutOfRange a)) ∨
    (a.toNat < s.cfg.dataSize ∧ s.cfg.writeChained a.toNat = true ∧
      storeByte s a v = .next (s.emit (.ioWrite a v)).freeIoBytes) ∨
    (a.toNat < s.cfg.dataSize ∧ s.cfg.writeChained a.toNat = false ∧
      storeByte s a v = .next (s.setByte a.toNat v)) := by
  unfold storeByte
  by_cases h : s.cfg.dataSize ≤ a.toNat
  · simp [h]
  · cases s.cfg.writeChained a.toNat <;> simp [h] <;> omega

theorem storeByte_next {s t : State} {a : Word} {v : Byte} (h : storeByte s a v = .next t) :
    DataStep s t ∧ (s.dm.wf = true → ∀ b, Config.Spares s.cfg a b → t.byte b = s.byte b) := by
  rcases storeByte_cases s a v with ⟨-, e⟩ | ⟨hlt, hc, e⟩ | ⟨hlt, -, e⟩ <;> rw [e] at h
  · cases h
  · obtain rfl := Host.Outcome.next.inj h
    refine ⟨DataStep.emit.trans .freeIoBytes, fun hw b hb => ?_⟩
    rw [State.byte_freeIoBytes (s := s.emit (.ioWrite a v)) hw (hb.2 hc), State.byte_emit]
  · cases h
    refine ⟨.setByte hlt, fun hw b hb => ?_⟩
    rw [State.byte_setByte hw, if_neg hb.1]

/-- R65: what a data write can do: nothing but change the byte at its address, or the bindings' I/O bytes where a write chain
takes it, draw free values and emit events. -/
theorem memWrite_next {s t : State} {a : Word} {v : Byte} (h : memWrite s a v = .next t) :
    DataStep s t ∧ (s.dm.wf = true → ∀ b, Config.Spares s.cfg a b → t.byte b = s.byte b) := by
  unfold memWrite at h
  split at h
  · have hd : DataStep s (s.emit (.writeOffer a v)).drawn := DataStep.emit.trans .draw
    dsimp only at h
    split at h
    · cases h; exact ⟨hd, fun _ _ _ => rfl⟩
    · obtain ⟨he, hb⟩ := storeByte_next h
      exact ⟨hd.trans he, hb⟩
  · exact storeByte_next h

/-- R73: with no callout and no write chain at the address, the byte is stored. -/
theorem memWrite_plain {s : State} {a : Word} {v : Byte} (h : a.toNat < s.cfg.dataSize)
    (hc : s.cfg.writeChained a.toNat = false) (hv : s.cfg.callouts.contains a.toNat = false) :
    memWrite s a v = .next (s.setByte a.toNat v) := by
  rw [memWrite, hv]
  simp [storeByte, hc, Nat.not_le.mpr h]

/-- R66: with no callout at the address, a write outside the data space is the fatal fault, with its address. -/
theorem memWrite_out {s : State} {a : Word} {v : Byte} (h : s.cfg.dataSize ≤ a.toNat)
    (hv : s.cfg.callouts.contains a.toNat = false) : memWrite s a v = .fault (.dataOutOfRange a) := by
  rw [memWrite, hv]
  simp [storeByte, h]

/-- A data write is never refused. -/
theorem memWrite_not_refused (s : State) (a : Word) (v : Byte) (e : Refusal) : memWrite s a v ≠ .refused e := by
  have hs : ∀ u : State, storeByte u a v ≠ .refused e := by
    intro u
    rcases storeByte_cases u a v with ⟨-, h⟩ | ⟨-, -, h⟩ | ⟨-, -, h⟩ <;> rw [h] <;> exact fun k => nomatch k
  unfold memWrite
  split
  · split
    · exact fun k => nomatch k
    · exact hs _
  · exact hs _

/-- R62: a program read inside program memory. -/
theorem pmRead_in {s : State} {a : Word} (h : a.toNat < s.cfg.romWords) : pmRead s a = .next (s.rom.get a.toNat) := by
  simp [pmRead, Nat.not_le.mpr h]

/-- R62: a program read outside program memory is the fatal fault, with its address. -/
theorem pmRead_out {s : State} {a : Word} (h : s.cfg.romWords ≤ a.toNat) :
    pmRead s a = .fault (.programOutOfRange a) := by
  simp [pmRead, h]

theorem pmRead_not_refused (s : State) (a : Word) (e : Refusal) : pmRead s a ≠ .refused e := by
  unfold pmRead
  split <;> exact fun k => nomatch k

/-! ### Canonical form and bounds of the direct writes -/

section direct

variable {s : State}

@[simp] theorem State.wf_setByte (h : s.dm.wf = true) (a : Nat) (v : Byte) : (s.setByte a v).dm.wf = true :=
  Memory.set_wf h
@[simp] theorem State.wf_setReg (h : s.dm.wf = true) (d : Reg) (v : Byte) : (s.setReg d v).dm.wf = true :=
  Memory.set_wf h
@[simp] theorem State.wf_setPair (h : s.dm.wf = true) (d : Reg) (v : Word) : (s.setPair d v).dm.wf = true :=
  Memory.set_wf (Memory.set_wf h)
@[simp] theorem State.wf_setFlags (h : s.dm.wf = true) (f : Flags) : (s.setFlags f).dm.wf = true :=
  Memory.set_wf h
@[simp] theorem State.wf_setSp (h : s.dm.wf = true) (v : Word) : (s.setSp v).dm.wf = true :=
  Memory.set_wf (Memory.set_wf h)

theorem DataStep.setReg (hl : s.cfg.Legal) (d : Reg) (v : Byte) : DataStep s (s.setReg d v) :=
  .setByte (by have := d.isLt; have := hl.2.2.1; omega)

theorem DataStep.setPair (hl : s.cfg.Legal) (d : Reg) (v : Word) : DataStep s (s.setPair d v) :=
  (DataStep.setByte (s := s) (by have := d.isLt; have := hl.2.2.1; omega)).trans
    (.setByte (by have := d.isLt; have := hl.2.2.1; show d.val + 1 < s.cfg.dataSize; omega))

theorem DataStep.setFlags (hl : s.cfg.Legal) (f : Flags) : DataStep s (s.setFlags f) :=
  .setByte (by have := hl.2.2.1; unfold sregAddr; omega)

theorem DataStep.setSp (hl : s.cfg.Legal) (v : Word) : DataStep s (s.setSp v) :=
  (DataStep.setByte (s := s) (a := splAddr) (by have := hl.2.2.1; unfold splAddr; omega)).trans
    (.setByte (by have := hl.2.2.1; show sphAddr < s.cfg.dataSize; unfold sphAddr; omega))

end direct

/-! ### The stack -/

/-- R301: a push changes the data space only. -/
theorem pushRet_next {s t : State} {ret : Word} (hl : s.cfg.Legal) (h : pushRet s ret = .next t) : DataStep s t := by
  unfold pushRet at h
  obtain ⟨s1, h1, h⟩ := Res.bind_eq_next.mp h
  obtain ⟨s2, h2, h⟩ := Res.bind_eq_next.mp h
  cases h
  have d1 := (memWrite_next h1).1
  have d2 := d1.trans (memWrite_next h2).1
  exact d2.trans (.setSp (by rw [d2.cfg]; exact hl) _)

/-- R302: a pop changes the data space only. -/
theorem popRet_next {s t : State} {ret : Word} (hl : s.cfg.Legal) (h : popRet s = .next (ret, t)) : DataStep s t := by
  unfold popRet at h
  obtain ⟨⟨hi, s1⟩, h1, h⟩ := Res.bind_eq_next.mp h
  obtain ⟨⟨lo, s2⟩, h2, h⟩ := Res.bind_eq_next.mp h
  cases h
  have d1 := (memRead_next h1).2.1
  have d2 := d1.trans (memRead_next h2).2.1
  exact d2.trans (.setSp (by rw [d2.cfg]; exact hl) _)

theorem pushRet_not_refused (s : State) (ret : Word) (e : Refusal) : pushRet s ret ≠ .refused e := by
  intro h
  rcases Res.bind_eq_refused.mp h with h | ⟨s1, -, h⟩
  · exact memWrite_not_refused _ _ _ _ h
  · rcases Res.bind_eq_refused.mp h with h | ⟨s2, -, h⟩
    · exact memWrite_not_refused _ _ _ _ h
    · cases h

theorem popRet_not_refused (s : State) (e : Refusal) : popRet s ≠ .refused e := by
  intro h
  rcases Res.bind_eq_refused.mp h with h | ⟨⟨hi, s1⟩, -, h⟩
  · exact memRead_not_refused _ _ _ h
  · rcases Res.bind_eq_refused.mp h with h | ⟨⟨lo, s2⟩, -, h⟩
    · exact memRead_not_refused _ _ _ h
    · cases h

/-! ### Events and service -/

/-- One environment event touches the controller and owned I/O bytes only. -/
theorem applyEvent_same (s : State) (e : EnvEvent) :
    applyEvent s e =
      { s with
        dm := (applyEvent s e).dm
        intPrio := (applyEvent s e).intPrio
        intPending := (applyEvent s e).intPending } := by
  cases e with
  | irqRaise v => rfl
  | irqClear v => rfl
  | ioByte a v => simp only [applyEvent]; split <;> rfl

/-- The environment events of a tick phase touch the controller and owned I/O bytes only. -/
theorem foldl_applyEvent_same (es : List EnvEvent) (s : State) :
    es.foldl applyEvent s =
      { s with
        dm := (es.foldl applyEvent s).dm
        intPrio := (es.foldl applyEvent s).intPrio
        intPending := (es.foldl applyEvent s).intPending } := by
  induction es generalizing s with
  | nil => rfl
  | cons e es ih =>
    rw [List.foldl_cons, ih]
    generalize hf : List.foldl applyEvent (applyEvent s e) es = u
    rw [applyEvent_same s e]

/-- R506: service either leaves the state or takes an interrupt. -/
theorem service_cases (s : State) :
    (s.flags.i = true ∧ s.intPending ≠ 0 ∧ service s = takeInterrupt s) ∨
      ((s.flags.i = false ∨ s.intPending = 0) ∧ service s = .next s) := by
  by_cases h : (s.flags.i && s.intPending != 0) = true
  · exact .inl ⟨by simp_all, by simp_all, by rw [service, if_pos h]⟩
  · refine .inr ⟨?_, by rw [service, if_neg h]⟩
    cases hi : s.flags.i
    · exact .inl rfl
    · exact .inr (by simpa [hi] using h)

end Sys2Proof.Machine
end

