-- ==== Sys2Proof/Laws/PerInstr.lean ====
section
/-! SUPPORT. Statements about every instruction as syntax, one lemma a constructor. -/

namespace Sys2Proof.Laws

/-- A word of these bits is no two-word form (R103). -/
theorem size_one {n : Nat} (h : n < 65536) (h1 : n / 1024 ≠ 36 ∨ n % 16 ≠ 0) (h2 : n / 512 ≠ 74 ∨ n / 4 % 4 ≠ 3) :
    wordSize (BitVec.ofNat 16 n) = 1 := by
  have e : (BitVec.ofNat 16 n).toNat = n := by simp; omega
  unfold wordSize field
  rw [e]
  refine if_neg ?_
  simp only [Bool.or_eq_true, Bool.and_eq_true, beq_iff_eq]
  omega

/-- A word of these bits is a two-word form (R103). -/
theorem size_two {n : Nat} (h : n < 65536) (h1 : (n / 1024 = 36 ∧ n % 16 = 0) ∨ (n / 512 = 74 ∧ n / 4 % 4 = 3)) :
    wordSize (BitVec.ofNat 16 n) = 2 := by
  have e : (BitVec.ofNat 16 n).toNat = n := by simp; omega
  unfold wordSize field
  rw [e]
  refine if_pos ?_
  simp only [Bool.or_eq_true, Bool.and_eq_true, beq_iff_eq]
  omega

/-! ### The number of words an instruction is encoded in is the size its first word announces (R103, R104). -/

namespace EncodedSize

/-- The first word of the encoding announces the number of words. -/
def Statement (i : Instr) : Prop :=
  i.wellFormed = true → (encode i).head?.map wordSize = some (encode i).length

theorem add (d r : Reg) : Statement (.add d r) := by
  intro _
  have := d.isLt
  have := r.isLt
  refine congrArg some (size_one ?_ ?_ ?_) <;> (unfold fRdRr; omega)
theorem adc (d r : Reg) : Statement (.adc d r) := by
  intro _
  have := d.isLt
  have := r.isLt
  refine congrArg some (size_one ?_ ?_ ?_) <;> (unfold fRdRr; omega)
theorem adiw (d : Reg) (k : BitVec 6) : Statement (.adiw d k) := by
  intro _
  have := d.isLt
  have := k.isLt
  refine congrArg some (size_one ?_ ?_ ?_) <;> (unfold fPairK6; omega)
theorem sub (d r : Reg) : Statement (.sub d r) := by
  intro _
  have := d.isLt
  have := r.isLt
  refine congrArg some (size_one ?_ ?_ ?_) <;> (unfold fRdRr; omega)
theorem subi (d : Reg) (k : Byte) : Statement (.subi d k) := by
  intro _
  have := d.isLt
  have := k.isLt
  refine congrArg some (size_one ?_ ?_ ?_) <;> (unfold fRdK8; omega)
theorem sbc (d r : Reg) : Statement (.sbc d r) := by
  intro _
  have := d.isLt
  have := r.isLt
  refine congrArg some (size_one ?_ ?_ ?_) <;> (unfold fRdRr; omega)
theorem sbci (d : Reg) (k : Byte) : Statement (.sbci d k) := by
  intro _
  have := d.isLt
  have := k.isLt
  refine congrArg some (size_one ?_ ?_ ?_) <;> (unfold fRdK8; omega)
theorem sbiw (d : Reg) (k : BitVec 6) : Statement (.sbiw d k) := by
  intro _
  have := d.isLt
  have := k.isLt
  refine congrArg some (size_one ?_ ?_ ?_) <;> (unfold fPairK6; omega)
theorem and (d r : Reg) : Statement (.and d r) := by
  intro _
  have := d.isLt
  have := r.isLt
  refine congrArg some (size_one ?_ ?_ ?_) <;> (unfold fRdRr; omega)
theorem andi (d : Reg) (k : Byte) : Statement (.andi d k) := by
  intro _
  have := d.isLt
  have := k.isLt
  refine congrArg some (size_one ?_ ?_ ?_) <;> (unfold fRdK8; omega)
theorem or (d r : Reg) : Statement (.or d r) := by
  intro _
  have := d.isLt
  have := r.isLt
  refine congrArg some (size_one ?_ ?_ ?_) <;> (unfold fRdRr; omega)
theorem ori (d : Reg) (k : Byte) : Statement (.ori d k) := by
  intro _
  have := d.isLt
  have := k.isLt
  refine congrArg some (size_one ?_ ?_ ?_) <;> (unfold fRdK8; omega)
theorem eor (d r : Reg) : Statement (.eor d r) := by
  intro _
  have := d.isLt
  have := r.isLt
  refine congrArg some (size_one ?_ ?_ ?_) <;> (unfold fRdRr; omega)
theorem com (d : Reg) : Statement (.com d) := by
  intro _
  have := d.isLt
  refine congrArg some (size_one ?_ ?_ ?_) <;> (unfold fRd; omega)
theorem neg (d : Reg) : Statement (.neg d) := by
  intro _
  have := d.isLt
  refine congrArg some (size_one ?_ ?_ ?_) <;> (unfold fRd; omega)
theorem inc (d : Reg) : Statement (.inc d) := by
  intro _
  have := d.isLt
  refine congrArg some (size_one ?_ ?_ ?_) <;> (unfold fRd; omega)
theorem dec (d : Reg) : Statement (.dec d) := by
  intro _
  have := d.isLt
  refine congrArg some (size_one ?_ ?_ ?_) <;> (unfold fRd; omega)
theorem cp (d r : Reg) : Statement (.cp d r) := by
  intro _
  have := d.isLt
  have := r.isLt
  refine congrArg some (size_one ?_ ?_ ?_) <;> (unfold fRdRr; omega)
theorem cpc (d r : Reg) : Statement (.cpc d r) := by
  intro _
  have := d.isLt
  have := r.isLt
  refine congrArg some (size_one ?_ ?_ ?_) <;> (unfold fRdRr; omega)
theorem cpi (d : Reg) (k : Byte) : Statement (.cpi d k) := by
  intro _
  have := d.isLt
  have := k.isLt
  refine congrArg some (size_one ?_ ?_ ?_) <;> (unfold fRdK8; omega)
theorem tst (d : Reg) : Statement (.tst d) := by
  intro _
  have := d.isLt
  refine congrArg some (size_one ?_ ?_ ?_) <;> (unfold fRdRr; omega)
theorem clr (d : Reg) : Statement (.clr d) := by
  intro _
  have := d.isLt
  refine congrArg some (size_one ?_ ?_ ?_) <;> (unfold fRdRr; omega)
theorem sbr (d : Reg) (k : Byte) : Statement (.sbr d k) := by
  intro _
  have := d.isLt
  have := k.isLt
  refine congrArg some (size_one ?_ ?_ ?_) <;> (unfold fRdK8; omega)
theorem cbr (d : Reg) (k : Byte) : Statement (.cbr d k) := by
  intro _
  have := d.isLt
  have := (0xFF - k).isLt
  refine congrArg some (size_one ?_ ?_ ?_) <;> (unfold fRdK8; omega)
theorem mul (d r : Reg) : Statement (.mul d r) := by
  intro _
  have := d.isLt
  have := r.isLt
  refine congrArg some (size_one ?_ ?_ ?_) <;> (unfold fRdRr; omega)
theorem muls (d r : Reg) : Statement (.muls d r) := by
  intro _
  have := d.isLt
  have := r.isLt
  refine congrArg some (size_one ?_ ?_ ?_) <;> (unfold fRd4Rr4; omega)
theorem mulsu (d r : Reg) : Statement (.mulsu d r) := by
  intro _
  have := d.isLt
  have := r.isLt
  refine congrArg some (size_one ?_ ?_ ?_) <;> (unfold fRd3Rr3; omega)
theorem fmul (d r : Reg) : Statement (.fmul d r) := by
  intro _
  have := d.isLt
  have := r.isLt
  refine congrArg some (size_one ?_ ?_ ?_) <;> (unfold fRd3Rr3; omega)
theorem fmuls (d r : Reg) : Statement (.fmuls d r) := by
  intro _
  have := d.isLt
  have := r.isLt
  refine congrArg some (size_one ?_ ?_ ?_) <;> (unfold fRd3Rr3; omega)
theorem fmulsu (d r : Reg) : Statement (.fmulsu d r) := by
  intro _
  have := d.isLt
  have := r.isLt
  refine congrArg some (size_one ?_ ?_ ?_) <;> (unfold fRd3Rr3; omega)
theorem lsl (d : Reg) : Statement (.lsl d) := by
  intro _
  have := d.isLt
  refine congrArg some (size_one ?_ ?_ ?_) <;> (unfold fRdRr; omega)
theorem rol (d : Reg) : Statement (.rol d) := by
  intro _
  have := d.isLt
  refine congrArg some (size_one ?_ ?_ ?_) <;> (unfold fRdRr; omega)
theorem lsr (d : Reg) : Statement (.lsr d) := by
  intro _
  have := d.isLt
  refine congrArg some (size_one ?_ ?_ ?_) <;> (unfold fRd; omega)
theorem ror (d : Reg) : Statement (.ror d) := by
  intro _
  have := d.isLt
  refine congrArg some (size_one ?_ ?_ ?_) <;> (unfold fRd; omega)
theorem asr (d : Reg) : Statement (.asr d) := by
  intro _
  have := d.isLt
  refine congrArg some (size_one ?_ ?_ ?_) <;> (unfold fRd; omega)
theorem swap (d : Reg) : Statement (.swap d) := by
  intro _
  have := d.isLt
  refine congrArg some (size_one ?_ ?_ ?_) <;> (unfold fRd; omega)
theorem bset (i : Fin 8) : Statement (.bset i) := by
  intro _
  have := i.isLt
  refine congrArg some (size_one ?_ ?_ ?_) <;> (omega)
theorem bclr (i : Fin 8) : Statement (.bclr i) := by
  intro _
  have := i.isLt
  refine congrArg some (size_one ?_ ?_ ?_) <;> (omega)
theorem sec : Statement .sec := fun _ => rfl
theorem sez : Statement .sez := fun _ => rfl
theorem sen : Statement .sen := fun _ => rfl
theorem sev : Statement .sev := fun _ => rfl
theorem ses : Statement .ses := fun _ => rfl
theorem seh : Statement .seh := fun _ => rfl
theorem set_ : Statement .set_ := fun _ => rfl
theorem sei : Statement .sei := fun _ => rfl
theorem clc : Statement .clc := fun _ => rfl
theorem clz : Statement .clz := fun _ => rfl
theorem cln : Statement .cln := fun _ => rfl
theorem clv : Statement .clv := fun _ => rfl
theorem cls : Statement .cls := fun _ => rfl
theorem clh : Statement .clh := fun _ => rfl
theorem clt : Statement .clt := fun _ => rfl
theorem cli : Statement .cli := fun _ => rfl
theorem bst (d : Reg) (b : Fin 8) : Statement (.bst d b) := by
  intro _
  have := d.isLt
  have := b.isLt
  refine congrArg some (size_one ?_ ?_ ?_) <;> (unfold fRdB; omega)
theorem bld (d : Reg) (b : Fin 8) : Statement (.bld d b) := by
  intro _
  have := d.isLt
  have := b.isLt
  refine congrArg some (size_one ?_ ?_ ?_) <;> (unfold fRdB; omega)
theorem sbi (a : BitVec 5) (b : Fin 8) : Statement (.sbi a b) := by
  intro _
  have := a.isLt
  have := b.isLt
  refine congrArg some (size_one ?_ ?_ ?_) <;> (unfold fIoB; omega)
theorem cbi (a : BitVec 5) (b : Fin 8) : Statement (.cbi a b) := by
  intro _
  have := a.isLt
  have := b.isLt
  refine congrArg some (size_one ?_ ?_ ?_) <;> (unfold fIoB; omega)
theorem rjmp (k : BitVec 12) : Statement (.rjmp k) := by
  intro _
  have := k.isLt
  refine congrArg some (size_one ?_ ?_ ?_) <;> (omega)
theorem ijmp : Statement .ijmp := fun _ => rfl
theorem eijmp : Statement .eijmp := fun _ => rfl
theorem jmp (k : BitVec 22) : Statement (.jmp k) := by
  intro _
  have := k.isLt
  refine congrArg some (size_two ?_ ?_) <;> (unfold fAbs22; omega)
theorem rcall (k : BitVec 12) : Statement (.rcall k) := by
  intro _
  have := k.isLt
  refine congrArg some (size_one ?_ ?_ ?_) <;> (omega)
theorem icall : Statement .icall := fun _ => rfl
theorem eicall : Statement .eicall := fun _ => rfl
theorem call (k : BitVec 22) : Statement (.call k) := by
  intro _
  have := k.isLt
  refine congrArg some (size_two ?_ ?_) <;> (unfold fAbs22; omega)
theorem ret : Statement .ret := fun _ => rfl
theorem reti : Statement .reti := fun _ => rfl
theorem cpse (d r : Reg) : Statement (.cpse d r) := by
  intro _
  have := d.isLt
  have := r.isLt
  refine congrArg some (size_one ?_ ?_ ?_) <;> (unfold fRdRr; omega)
theorem sbrc (r : Reg) (b : Fin 8) : Statement (.sbrc r b) := by
  intro _
  have := r.isLt
  have := b.isLt
  refine congrArg some (size_one ?_ ?_ ?_) <;> (unfold fRdB; omega)
theorem sbrs (r : Reg) (b : Fin 8) : Statement (.sbrs r b) := by
  intro _
  have := r.isLt
  have := b.isLt
  refine congrArg some (size_one ?_ ?_ ?_) <;> (unfold fRdB; omega)
theorem sbic (a : BitVec 5) (b : Fin 8) : Statement (.sbic a b) := by
  intro _
  have := a.isLt
  have := b.isLt
  refine congrArg some (size_one ?_ ?_ ?_) <;> (unfold fIoB; omega)
theorem sbis (a : BitVec 5) (b : Fin 8) : Statement (.sbis a b) := by
  intro _
  have := a.isLt
  have := b.isLt
  refine congrArg some (size_one ?_ ?_ ?_) <;> (unfold fIoB; omega)
theorem brbs (i : Fin 8) (k : BitVec 7) : Statement (.brbs i k) := by
  intro _
  have := i.isLt
  have := k.isLt
  refine congrArg some (size_one ?_ ?_ ?_) <;> (unfold fBr; omega)
theorem brbc (i : Fin 8) (k : BitVec 7) : Statement (.brbc i k) := by
  intro _
  have := i.isLt
  have := k.isLt
  refine congrArg some (size_one ?_ ?_ ?_) <;> (unfold fBr; omega)
theorem brcs (k : BitVec 7) : Statement (.brcs k) := by
  intro _
  have := k.isLt
  refine congrArg some (size_one ?_ ?_ ?_) <;> (unfold fBr; omega)
theorem brlo (k : BitVec 7) : Statement (.brlo k) := by
  intro _
  have := k.isLt
  refine congrArg some (size_one ?_ ?_ ?_) <;> (unfold fBr; omega)
theorem brcc (k : BitVec 7) : Statement (.brcc k) := by
  intro _
  have := k.isLt
  refine congrArg some (size_one ?_ ?_ ?_) <;> (unfold fBr; omega)
theorem brsh (k : BitVec 7) : Statement (.brsh k) := by
  intro _
  have := k.isLt
  refine congrArg some (size_one ?_ ?_ ?_) <;> (unfold fBr; omega)
theorem breq (k : BitVec 7) : Statement (.breq k) := by
  intro _
  have := k.isLt
  refine congrArg some (size_one ?_ ?_ ?_) <;> (unfold fBr; omega)
theorem brne (k : BitVec 7) : Statement (.brne k) := by
  intro _
  have := k.isLt
  refine congrArg some (size_one ?_ ?_ ?_) <;> (unfold fBr; omega)
theorem brmi (k : BitVec 7) : Statement (.brmi k) := by
  intro _
  have := k.isLt
  refine congrArg some (size_one ?_ ?_ ?_) <;> (unfold fBr; omega)
theorem brpl (k : BitVec 7) : Statement (.brpl k) := by
  intro _
  have := k.isLt
  refine congrArg some (size_one ?_ ?_ ?_) <;> (unfold fBr; omega)
theorem brvs (k : BitVec 7) : Statement (.brvs k) := by
  intro _
  have := k.isLt
  refine congrArg some (size_one ?_ ?_ ?_) <;> (unfold fBr; omega)
theorem brvc (k : BitVec 7) : Statement (.brvc k) := by
  intro _
  have := k.isLt
  refine congrArg some (size_one ?_ ?_ ?_) <;> (unfold fBr; omega)
theorem brlt (k : BitVec 7) : Statement (.brlt k) := by
  intro _
  have := k.isLt
  refine congrArg some (size_one ?_ ?_ ?_) <;> (unfold fBr; omega)
theorem brge (k : BitVec 7) : Statement (.brge k) := by
  intro _
  have := k.isLt
  refine congrArg some (size_one ?_ ?_ ?_) <;> (unfold fBr; omega)
theorem brhs (k : BitVec 7) : Statement (.brhs k) := by
  intro _
  have := k.isLt
  refine congrArg some (size_one ?_ ?_ ?_) <;> (unfold fBr; omega)
theorem brhc (k : BitVec 7) : Statement (.brhc k) := by
  intro _
  have := k.isLt
  refine congrArg some (size_one ?_ ?_ ?_) <;> (unfold fBr; omega)
theorem brts (k : BitVec 7) : Statement (.brts k) := by
  intro _
  have := k.isLt
  refine congrArg some (size_one ?_ ?_ ?_) <;> (unfold fBr; omega)
theorem brtc (k : BitVec 7) : Statement (.brtc k) := by
  intro _
  have := k.isLt
  refine congrArg some (size_one ?_ ?_ ?_) <;> (unfold fBr; omega)
theorem brie (k : BitVec 7) : Statement (.brie k) := by
  intro _
  have := k.isLt
  refine congrArg some (size_one ?_ ?_ ?_) <;> (unfold fBr; omega)
theorem brid (k : BitVec 7) : Statement (.brid k) := by
  intro _
  have := k.isLt
  refine congrArg some (size_one ?_ ?_ ?_) <;> (unfold fBr; omega)
theorem mov (d r : Reg) : Statement (.mov d r) := by
  intro _
  have := d.isLt
  have := r.isLt
  refine congrArg some (size_one ?_ ?_ ?_) <;> (unfold fRdRr; omega)
theorem movw (d r : Reg) : Statement (.movw d r) := by
  intro _
  have := d.isLt
  have := r.isLt
  refine congrArg some (size_one ?_ ?_ ?_) <;> (unfold fMovw; omega)
theorem ldi (d : Reg) (k : Byte) : Statement (.ldi d k) := by
  intro _
  have := d.isLt
  have := k.isLt
  refine congrArg some (size_one ?_ ?_ ?_) <;> (unfold fRdK8; omega)
theorem ser (d : Reg) : Statement (.ser d) := by
  intro _
  have := d.isLt
  refine congrArg some (size_one ?_ ?_ ?_) <;> (unfold fRdK8; omega)
theorem lds (d : Reg) (k : Word) : Statement (.lds d k) := by
  intro _
  have := d.isLt
  have := k.isLt
  refine congrArg some (size_two ?_ ?_) <;> (unfold fRd; omega)
theorem sts (k : Word) (r : Reg) : Statement (.sts k r) := by
  intro _
  have := k.isLt
  have := r.isLt
  refine congrArg some (size_two ?_ ?_) <;> (unfold fRd; omega)
theorem ldX (d : Reg) : Statement (.ldX d) := by
  intro _
  have := d.isLt
  refine congrArg some (size_one ?_ ?_ ?_) <;> (unfold fRd; omega)
theorem ldXInc (d : Reg) : Statement (.ldXInc d) := by
  intro _
  have := d.isLt
  refine congrArg some (size_one ?_ ?_ ?_) <;> (unfold fRd; omega)
theorem ldXDec (d : Reg) : Statement (.ldXDec d) := by
  intro _
  have := d.isLt
  refine congrArg some (size_one ?_ ?_ ?_) <;> (unfold fRd; omega)
theorem ldY (d : Reg) : Statement (.ldY d) := by
  intro _
  have := d.isLt
  refine congrArg some (size_one ?_ ?_ ?_) <;> (unfold fRd; omega)
theorem ldYInc (d : Reg) : Statement (.ldYInc d) := by
  intro _
  have := d.isLt
  refine congrArg some (size_one ?_ ?_ ?_) <;> (unfold fRd; omega)
theorem ldYDec (d : Reg) : Statement (.ldYDec d) := by
  intro _
  have := d.isLt
  refine congrArg some (size_one ?_ ?_ ?_) <;> (unfold fRd; omega)
theorem lddY (d : Reg) (q : BitVec 6) : Statement (.lddY d q) := by
  intro _
  have := d.isLt
  have := q.isLt
  refine congrArg some (size_one ?_ ?_ ?_) <;> (unfold fDisp; omega)
theorem ldZ (d : Reg) : Statement (.ldZ d) := by
  intro _
  have := d.isLt
  refine congrArg some (size_one ?_ ?_ ?_) <;> (unfold fRd; omega)
theorem ldZInc (d : Reg) : Statement (.ldZInc d) := by
  intro _
  have := d.isLt
  refine congrArg some (size_one ?_ ?_ ?_) <;> (unfold fRd; omega)
theorem ldZDec (d : Reg) : Statement (.ldZDec d) := by
  intro _
  have := d.isLt
  refine congrArg some (size_one ?_ ?_ ?_) <;> (unfold fRd; omega)
theorem lddZ (d : Reg) (q : BitVec 6) : Statement (.lddZ d q) := by
  intro _
  have := d.isLt
  have := q.isLt
  refine congrArg some (size_one ?_ ?_ ?_) <;> (unfold fDisp; omega)
theorem stX (r : Reg) : Statement (.stX r) := by
  intro _
  have := r.isLt
  refine congrArg some (size_one ?_ ?_ ?_) <;> (unfold fRd; omega)
theorem stXInc (r : Reg) : Statement (.stXInc r) := by
  intro _
  have := r.isLt
  refine congrArg some (size_one ?_ ?_ ?_) <;> (unfold fRd; omega)
theorem stXDec (r : Reg) : Statement (.stXDec r) := by
  intro _
  have := r.isLt
  refine congrArg some (size_one ?_ ?_ ?_) <;> (unfold fRd; omega)
theorem stY (r : Reg) : Statement (.stY r) := by
  intro _
  have := r.isLt
  refine congrArg some (size_one ?_ ?_ ?_) <;> (unfold fRd; omega)
theorem stYInc (r : Reg) : Statement (.stYInc r) := by
  intro _
  have := r.isLt
  refine congrArg some (size_one ?_ ?_ ?_) <;> (unfold fRd; omega)
theorem stYDec (r : Reg) : Statement (.stYDec r) := by
  intro _
  have := r.isLt
  refine congrArg some (size_one ?_ ?_ ?_) <;> (unfold fRd; omega)
theorem stdY (q : BitVec 6) (r : Reg) : Statement (.stdY q r) := by
  intro _
  have := q.isLt
  have := r.isLt
  refine congrArg some (size_one ?_ ?_ ?_) <;> (unfold fDisp; omega)
theorem stZ (r : Reg) : Statement (.stZ r) := by
  intro _
  have := r.isLt
  refine congrArg some (size_one ?_ ?_ ?_) <;> (unfold fRd; omega)
theorem stZInc (r : Reg) : Statement (.stZInc r) := by
  intro _
  have := r.isLt
  refine congrArg some (size_one ?_ ?_ ?_) <;> (unfold fRd; omega)
theorem stZDec (r : Reg) : Statement (.stZDec r) := by
  intro _
  have := r.isLt
  refine congrArg some (size_one ?_ ?_ ?_) <;> (unfold fRd; omega)
theorem stdZ (q : BitVec 6) (r : Reg) : Statement (.stdZ q r) := by
  intro _
  have := q.isLt
  have := r.isLt
  refine congrArg some (size_one ?_ ?_ ?_) <;> (unfold fDisp; omega)
theorem lpm : Statement .lpm := fun _ => rfl
theorem lpmZ (d : Reg) : Statement (.lpmZ d) := by
  intro _
  have := d.isLt
  refine congrArg some (size_one ?_ ?_ ?_) <;> (unfold fRd; omega)
theorem lpmZInc (d : Reg) : Statement (.lpmZInc d) := by
  intro _
  have := d.isLt
  refine congrArg some (size_one ?_ ?_ ?_) <;> (unfold fRd; omega)
theorem elpm : Statement .elpm := fun _ => rfl
theorem elpmZ (d : Reg) : Statement (.elpmZ d) := by
  intro _
  have := d.isLt
  refine congrArg some (size_one ?_ ?_ ?_) <;> (unfold fRd; omega)
theorem elpmZInc (d : Reg) : Statement (.elpmZInc d) := by
  intro _
  have := d.isLt
  refine congrArg some (size_one ?_ ?_ ?_) <;> (unfold fRd; omega)
theorem in_ (d : Reg) (a : BitVec 6) : Statement (.in_ d a) := by
  intro _
  have := d.isLt
  have := a.isLt
  refine congrArg some (size_one ?_ ?_ ?_) <;> (unfold fIoRd; omega)
theorem out (a : BitVec 6) (r : Reg) : Statement (.out a r) := by
  intro _
  have := a.isLt
  have := r.isLt
  refine congrArg some (size_one ?_ ?_ ?_) <;> (unfold fIoRd; omega)
theorem push (r : Reg) : Statement (.push r) := by
  intro _
  have := r.isLt
  refine congrArg some (size_one ?_ ?_ ?_) <;> (unfold fRd; omega)
theorem pop (d : Reg) : Statement (.pop d) := by
  intro _
  have := d.isLt
  refine congrArg some (size_one ?_ ?_ ?_) <;> (unfold fRd; omega)
theorem xch (d : Reg) : Statement (.xch d) := by
  intro _
  have := d.isLt
  refine congrArg some (size_one ?_ ?_ ?_) <;> (unfold fRd; omega)
theorem las (d : Reg) : Statement (.las d) := by
  intro _
  have := d.isLt
  refine congrArg some (size_one ?_ ?_ ?_) <;> (unfold fRd; omega)
theorem lac (d : Reg) : Statement (.lac d) := by
  intro _
  have := d.isLt
  refine congrArg some (size_one ?_ ?_ ?_) <;> (unfold fRd; omega)
theorem lat (d : Reg) : Statement (.lat d) := by
  intro _
  have := d.isLt
  refine congrArg some (size_one ?_ ?_ ?_) <;> (unfold fRd; omega)
theorem nop : Statement .nop := fun _ => rfl
theorem sleep : Statement .sleep := fun _ => rfl
theorem wdr : Statement .wdr := fun _ => rfl
theorem break_ : Statement .break_ := fun _ => rfl
theorem des (k : BitVec 4) : Statement (.des k) := by
  intro _
  have := k.isLt
  refine congrArg some (size_one ?_ ?_ ?_) <;> (omega)
theorem spm : Statement .spm := fun _ => rfl
theorem spmZInc : Statement .spmZInc := fun _ => rfl

end EncodedSize

end Sys2Proof.Laws
end

