-- ==== Sys2Proof/Tests/Slice0.lean ====
section
/-! SUPPORT. The model's own tests. Expected values are those of spec/95_test_vectors.md (the vector is named in each
docstring) or of the rule named; words are written out from the encodings of spec/30 and spec/opcode_table.json. -/

namespace Sys2Proof.Tests

open Sys2Proof Sys2Proof.Machine

/-! ### Helpers -/

/-- Cells written one after another. -/
def withCells {w : Nat} (m : Memory w) (cells : List (Nat × BitVec w)) : Memory w :=
  cells.foldl (fun m c => m.set c.1 c.2) m

/-- Words at rising word addresses. -/
def placed (pc : Nat) : List Word → List (Nat × Word)
  | [] => []
  | w :: ws => (pc, w) :: placed (pc + 1) ws

/-- The reset state with words loaded at `pc`, execution about to start there, and data bytes preset (R563). -/
def loaded (pc : Nat) (words : List Word) (cells : List (Nat × Byte)) : State :=
  { State.reset with
    dm := withCells State.reset.dm cells
    rom := withCells [] (placed pc words)
    pc := BitVec.ofNat 16 pc }

/-- One step from `s` ends in `t`, every field of it. -/
def stepIs (s t : State) : Bool :=
  match step s with
  | .next u => decide (u = t)
  | _ => false

/-- One step from `s` raises `e`. -/
def stepFaults (s : State) (e : Fault) : Bool :=
  match step s with
  | .fault f => decide (f = e)
  | _ => false

/-- One step from `s` ends at `pc` after `n` cycles with the listed bytes changed and all else as it was. -/
def runs (s : State) (pc n : Nat) (changed : List (Nat × Byte)) : Bool :=
  stepIs s
    { s with
      dm := withCells s.dm changed
      pc := BitVec.ofNat 16 pc
      cycles := s.cycles + n
      ticks := s.ticks + n
      instructions := s.instructions + 1 }

/-- Each word decodes to the instruction beside it. -/
def decodes (l : List (Word × Instr)) : Bool := l.all fun p => decide (decodeWords true p.1 0x0123 = some p.2)

/-- Each word is what the other name beside it encodes to, and decodes to that name's base. -/
def spells (l : List (Word × Instr)) : Bool :=
  l.all fun p => decide (encode p.2 = [p.1]) && decide (decodeWords false p.1 0 = some p.2.base)

/-- `HAS_RMW` set. -/
def withRmw (s : State) : State := { s with cfg := { s.cfg with hasRmw := true } }

/-! ### WellFormed: one ill-formed term for each check -/

theorem test_refuses_low_immediate_register : (Instr.subi 15 0).wellFormed = false := by decide
theorem test_refuses_low_alias_register : (Instr.ser 15).wellFormed = false := by decide
theorem test_refuses_low_signed_multiply_source : (Instr.muls 16 15).wellFormed = false := by decide
theorem test_refuses_low_signed_multiply_destination : (Instr.muls 15 16).wellFormed = false := by decide
theorem test_refuses_high_fractional_source : (Instr.fmul 16 24).wellFormed = false := by decide
theorem test_refuses_low_fractional_destination : (Instr.mulsu 15 16).wellFormed = false := by decide
theorem test_refuses_odd_pair_destination : (Instr.movw 1 2).wellFormed = false := by decide
theorem test_refuses_odd_pair_source : (Instr.movw 2 31).wellFormed = false := by decide
theorem test_refuses_low_word_pair : (Instr.adiw 22 0).wellFormed = false := by decide
theorem test_refuses_odd_word_pair : (Instr.sbiw 25 0).wellFormed = false := by decide

/-! ### Decoding: words written out from the encodings (R105 to R127, opcode_table.json) -/

theorem test_decodes_arithmetic : decodes
    [(0b0000110000010010, .add 1 2), (0b0001110000110100, .adc 3 4), (0b1001011000000001, .adiw 24 1),
     (0b1001011011011111, .adiw 26 63), (0b0001100001010110, .sub 5 6), (0b0101111101001111, .subi 20 0xFF),
     (0b0000100001111000, .sbc 7 8), (0b0100000000010001, .sbci 17 1), (0b1001011101110000, .sbiw 30 16)] = true := by decide

theorem test_decodes_logic : decodes
    [(0b0010000010011010, .and 9 10), (0b0111000000101111, .andi 18 0x0F), (0b0010100010011010, .or 9 10),
     (0b0110100000110000, .ori 19 0x80), (0b0010010010111100, .eor 11 12), (0b1001010011010000, .com 13),
     (0b1001010011100001, .neg 14), (0b1001010011110011, .inc 15), (0b1001010011111010, .dec 15),
     (0b0001010000010010, .cp 1 2), (0b0000010000010010, .cpc 1 2), (0b0011000001011010, .cpi 21 0x0A)] = true := by decide

theorem test_decodes_multiply : decodes
    [(0b1001110000100011, .mul 2 3), (0b0000001000000001, .muls 16 17), (0b0000001100000001, .mulsu 16 17),
     (0b0000001100001001, .fmul 16 17), (0b0000001111110111, .fmuls 23 23), (0b0000001110001001, .fmulsu 16 17)] = true := by decide

theorem test_decodes_shift_and_bit : decodes
    [(0b1001010001000110, .lsr 4), (0b1001010001000111, .ror 4), (0b1001010001000101, .asr 4),
     (0b1001010001000010, .swap 4), (0b1001010001111000, .bset 7), (0b1001010011011000, .bclr 5),
     (0b1111101001010011, .bst 5 3), (0b1111100001010111, .bld 5 7), (0b1001101011111111, .sbi 31 7),
     (0b1001100000101000, .cbi 5 0)] = true := by decide

theorem test_decodes_control_flow : decodes
    [(0b1100111111111111, .rjmp (-1)), (0b1001010000001001, .ijmp), (0b1001010000011001, .eijmp),
     (0b1001010111111101, .jmp 0x3F0123), (0b1101000000100000, .rcall 0x20), (0b1001010100001001, .icall),
     (0b1001010100011001, .eicall), (0b1001010000001110, .call 0x0123), (0b1001010100001000, .ret),
     (0b1001010100011000, .reti)] = true := by decide

theorem test_decodes_skips_and_branches : decodes
    [(0b0001000000010010, .cpse 1 2), (0b1111110000110111, .sbrc 3 7), (0b1111111000110000, .sbrs 3 0),
     (0b1001100100101010, .sbic 5 2), (0b1001101100101010, .sbis 5 2), (0b1111001111101001, .brbs 1 (-3)),
     (0b1111010111111000, .brbc 0 63)] = true := by decide

theorem test_decodes_moves_and_io : decodes
    [(0b0010111000001111, .mov 0 31), (0b0000000111001111, .movw 24 30), (0b1110101000000101, .ldi 16 0xA5),
     (0b1001000001010000, .lds 5 0x0123), (0b1001001001100000, .sts 0x0123 6), (0b1011011001001111, .in_ 4 0x3F),
     (0b1011101001000101, .out 0x15 4), (0b1001001010001111, .push 8), (0b1001000010001111, .pop 8)] = true := by decide

theorem test_decodes_indirect_loads : decodes
    [(0b1001000000001100, .ldX 0), (0b1001000000001101, .ldXInc 0), (0b1001000000001110, .ldXDec 0),
     (0b1001000000011001, .ldYInc 1), (0b1001000000011010, .ldYDec 1), (0b1010110000011111, .lddY 1 63),
     (0b1001000000100001, .ldZInc 2), (0b1001000000100010, .ldZDec 2), (0b1010010000100010, .lddZ 2 42)] = true := by decide

theorem test_decodes_indirect_stores : decodes
    [(0b1001001001111100, .stX 7), (0b1001001001111101, .stXInc 7), (0b1001001001111110, .stXDec 7),
     (0b1001001001111001, .stYInc 7), (0b1001001001111010, .stYDec 7), (0b1010001001111001, .stdY 33 7),
     (0b1001001001110001, .stZInc 7), (0b1001001001110010, .stZDec 7), (0b1010111001110111, .stdZ 63 7)] = true := by decide

theorem test_decodes_program_loads_and_exchanges : decodes
    [(0b1001010111001000, .lpm), (0b1001000010010100, .lpmZ 9), (0b1001000010010101, .lpmZInc 9),
     (0b1001010111011000, .elpm), (0b1001000010010110, .elpmZ 9), (0b1001000010010111, .elpmZInc 9),
     (0b1001001001010100, .xch 5), (0b1001001001010101, .las 5), (0b1001001001010110, .lac 5),
     (0b1001001001010111, .lat 5)] = true := by decide

theorem test_decodes_control : decodes
    [(0b0000000000000000, .nop), (0b1001010110001000, .sleep), (0b1001010110101000, .wdr),
     (0b1001010110011000, .break_), (0b1001010011111011, .des 15), (0b1001010111101000, .spm),
     (0b1001010111111000, .spmZInc)] = true := by decide

theorem test_spells_register_aliases : spells
    [(0b0010000010111011, .tst 11), (0b0010010010111011, .clr 11), (0b0110000001101111, .sbr 22 0x0F),
     (0b0111111101100000, .cbr 22 0x0F), (0b0000110001000100, .lsl 4), (0b0001110001000100, .rol 4),
     (0b1110111111111111, .ser 31), (0b1000000000011000, .ldY 1), (0b1000000000100000, .ldZ 2),
     (0b1000001001111000, .stY 7), (0b1000001001110000, .stZ 7)] = true := by decide

theorem test_spells_flag_aliases : spells
    [(0b1001010000001000, .sec), (0b1001010000011000, .sez), (0b1001010000101000, .sen), (0b1001010000111000, .sev),
     (0b1001010001001000, .ses), (0b1001010001011000, .seh), (0b1001010001101000, .set_), (0b1001010001111000, .sei),
     (0b1001010010001000, .clc), (0b1001010010011000, .clz), (0b1001010010101000, .cln), (0b1001010010111000, .clv),
     (0b1001010011001000, .cls), (0b1001010011011000, .clh), (0b1001010011101000, .clt), (0b1001010011111000, .cli)] = true := by decide

theorem test_spells_branch_aliases : spells
    [(0b1111000000010000, .brcs 2), (0b1111000000010000, .brlo 2), (0b1111010000010000, .brcc 2),
     (0b1111010000010000, .brsh 2), (0b1111000000010001, .breq 2), (0b1111010000010001, .brne 2),
     (0b1111000000010010, .brmi 2), (0b1111010000010010, .brpl 2), (0b1111000000010011, .brvs 2),
     (0b1111010000010011, .brvc 2), (0b1111000000010100, .brlt 2), (0b1111010000010100, .brge 2),
     (0b1111000000010101, .brhs 2), (0b1111010000010101, .brhc 2), (0b1111000000010110, .brts 2),
     (0b1111010000010110, .brtc 2), (0b1111000000010111, .brie 2), (0b1111010000010111, .brid 2)] = true := by decide

/-- R131: one word of each unrecognised set. -/
theorem test_unrecognised :
    ([0x0001, 0x9003, 0x9208, 0x9404, 0x95B8, 0x9429, 0x950B, 0xF808] : List Word).all
      (fun w => decide (decodeWords true w 0 = none)) = true := by decide

/-- R131: the exchange words without `HAS_RMW`. -/
theorem test_unrecognised_without_rmw :
    ([0x9254, 0x9255, 0x9256, 0x9257] : List Word).all (fun w => decide (decodeWords false w 0 = none)) = true := by
  decide

/-! ### One step of each instruction -/

/-- V-ADD-1: `ADD r1,r2`. -/
theorem test_add_1 :
    runs (loaded 0x0 [0x0C12] [(1, 0x7F), (2, 0x01)])
      0x1 1 [(1, 0x80), (0x5F, 0x2C)] = true := by decide

/-- V-ADD-5: `ADC r3,r4`. -/
theorem test_add_5 :
    runs (loaded 0x0 [0x1C34] [(3, 0xFF), (0x5F, 0x01)])
      0x1 1 [(3, 0x00), (0x5F, 0x23)] = true := by decide

/-- V-ADD-8: `ADIW r24,1`. -/
theorem test_add_8 :
    runs (loaded 0x0 [0x9601] [(24, 0xFF), (25, 0x7F)])
      0x1 2 [(24, 0x00), (25, 0x80), (0x5F, 0x0C)] = true := by decide

/-- V-ADD-9: `ADIW r26,63`. -/
theorem test_add_9 :
    runs (loaded 0x0 [0x96DF] [(26, 0xFF), (27, 0xFF)])
      0x1 2 [(26, 0x3E), (27, 0x00), (0x5F, 0x01)] = true := by decide

/-- V-SUB-1: `SUB r5,r6`. -/
theorem test_sub_1 :
    runs (loaded 0x0 [0x1856] [(6, 0x01)])
      0x1 1 [(5, 0xFF), (0x5F, 0x35)] = true := by decide

/-- V-SUB-5: `SUBI r20,0xFF`. -/
theorem test_sub_5 :
    runs (loaded 0x0 [0x5F4F] [])
      0x1 1 [(20, 0x01), (0x5F, 0x21)] = true := by decide

/-- V-SUB-9: `SBC r7,r8`. -/
theorem test_sub_9 :
    runs (loaded 0x0 [0x0878] [(7, 0x05), (8, 0x05), (0x5F, 0x02)])
      0x1 1 [(7, 0x00)] = true := by decide

/-- V-SUB-8: `SBC r7,r8`. -/
theorem test_sub_8 :
    runs (loaded 0x0 [0x0878] [(7, 0x05), (8, 0x05)])
      0x1 1 [(7, 0x00)] = true := by decide

/-- V-SUB-11: `SBCI r17,1`. -/
theorem test_sub_11 :
    runs (loaded 0x0 [0x4011] [(17, 0x02), (0x5F, 0x03)])
      0x1 1 [(17, 0x00), (0x5F, 0x02)] = true := by decide

/-- V-SUB-14: `SBIW r28,1`. -/
theorem test_sub_14 :
    runs (loaded 0x0 [0x9721] [(29, 0x80)])
      0x1 2 [(28, 0xFF), (29, 0x7F), (0x5F, 0x18)] = true := by decide

/-- V-LOG-1: `AND r9,r10`. -/
theorem test_log_1 :
    runs (loaded 0x0 [0x209A] [(9, 0xF0), (10, 0x3C), (0x5F, 0x09)])
      0x1 1 [(9, 0x30), (0x5F, 0x01)] = true := by decide

/-- V-LOG-2: `ANDI r18,0x0F`. -/
theorem test_log_2 :
    runs (loaded 0x0 [0x702F] [(18, 0xF0), (0x5F, 0x08)])
      0x1 1 [(18, 0x00), (0x5F, 0x02)] = true := by decide

/-- V-LOG-3: `OR r9,r10`. -/
theorem test_log_3 :
    runs (loaded 0x0 [0x289A] [(9, 0x80), (10, 0x01), (0x5F, 0x08)])
      0x1 1 [(9, 0x81), (0x5F, 0x14)] = true := by decide

/-- V-LOG-4: `ORI r19,0x80`. -/
theorem test_log_4 :
    runs (loaded 0x0 [0x6830] [(19, 0x01)])
      0x1 1 [(19, 0x81), (0x5F, 0x14)] = true := by decide

/-- V-LOG-5: `EOR r11,r12`. -/
theorem test_log_5 :
    runs (loaded 0x0 [0x24BC] [(11, 0xAA), (12, 0xFF)])
      0x1 1 [(11, 0x55)] = true := by decide

/-- V-LOG-10: `COM r13`. -/
theorem test_log_10 :
    runs (loaded 0x0 [0x94D0] [])
      0x1 1 [(13, 0xFF), (0x5F, 0x15)] = true := by decide

/-- V-LOG-12: `NEG r14`. -/
theorem test_log_12 :
    runs (loaded 0x0 [0x94E1] [(14, 0x01)])
      0x1 1 [(14, 0xFF), (0x5F, 0x35)] = true := by decide

/-- V-LOG-15: `NEG r14`. -/
theorem test_log_15 :
    runs (loaded 0x0 [0x94E1] [(14, 0x10)])
      0x1 1 [(14, 0xF0), (0x5F, 0x15)] = true := by decide

/-- V-LOG-16: `INC r15`. -/
theorem test_log_16 :
    runs (loaded 0x0 [0x94F3] [(15, 0x7F), (0x5F, 0x01)])
      0x1 1 [(15, 0x80), (0x5F, 0x0D)] = true := by decide

/-- V-LOG-18: `DEC r15`. -/
theorem test_log_18 :
    runs (loaded 0x0 [0x94FA] [(15, 0x80), (0x5F, 0x01)])
      0x1 1 [(15, 0x7F), (0x5F, 0x19)] = true := by decide

/-- V-LOG-21: `CP r1,r2`. -/
theorem test_log_21 :
    runs (loaded 0x0 [0x1412] [(1, 0x05), (2, 0x05)])
      0x1 1 [(0x5F, 0x02)] = true := by decide

/-- V-LOG-23: `CPC r1,r2`. -/
theorem test_log_23 :
    runs (loaded 0x0 [0x0412] [(1, 0x05), (2, 0x05), (0x5F, 0x03)])
      0x1 1 [(0x5F, 0x35)] = true := by decide

/-- V-LOG-25: `CPC r1,r2`. -/
theorem test_log_25 :
    runs (loaded 0x0 [0x0412] [(1, 0x05), (2, 0x05)])
      0x1 1 [] = true := by decide

/-- V-LOG-26: `CPI r16,0x80`. -/
theorem test_log_26 :
    runs (loaded 0x0 [0x3800] [(16, 0x7F)])
      0x1 1 [(0x5F, 0x0D)] = true := by decide

/-- V-MUL-1: `MUL r2,r3`. -/
theorem test_mul_1 :
    runs (loaded 0x0 [0x9C23] [(2, 0xFF), (3, 0xFF)])
      0x1 2 [(0x5F, 0x01), (0, 0x01), (1, 0xFE)] = true := by decide

/-- V-MUL-4: `MUL r0,r1`. -/
theorem test_mul_4 :
    runs (loaded 0x0 [0x9C01] [(0, 0x03), (1, 0x05)])
      0x1 2 [(0, 0x0F), (1, 0x00)] = true := by decide

/-- V-MUL-5: `MULS r16,r17`. -/
theorem test_mul_5 :
    runs (loaded 0x0 [0x0201] [(16, 0xFF), (17, 0x02)])
      0x1 2 [(0x5F, 0x01), (0, 0xFE), (1, 0xFF)] = true := by decide

/-- V-MUL-8: `MULSU r16,r17`. -/
theorem test_mul_8 :
    runs (loaded 0x0 [0x0301] [(16, 0xFF), (17, 0xFF)])
      0x1 2 [(0x5F, 0x01), (0, 0x01), (1, 0xFF)] = true := by decide

/-- V-MUL-11: `FMUL r16,r17`. -/
theorem test_mul_11 :
    runs (loaded 0x0 [0x0309] [(16, 0xFF), (17, 0xFF)])
      0x1 2 [(0x5F, 0x01), (0, 0x02), (1, 0xFC)] = true := by decide

/-- V-MUL-13: `FMULS r16,r17`. -/
theorem test_mul_13 :
    runs (loaded 0x0 [0x0381] [(16, 0x80), (17, 0x80)])
      0x1 2 [(1, 0x80)] = true := by decide

/-- V-MUL-16: `FMULSU r16,r17`. -/
theorem test_mul_16 :
    runs (loaded 0x0 [0x0389] [(16, 0x80), (17, 0xFF)])
      0x1 2 [(0x5F, 0x01), (1, 0x01)] = true := by decide

/-- V-SH-2: `LSL r4`. -/
theorem test_sh_2 :
    runs (loaded 0x0 [0x0C44] [(4, 0x48)])
      0x1 1 [(4, 0x90), (0x5F, 0x2C)] = true := by decide

/-- V-SH-3: `ROL r4`. -/
theorem test_sh_3 :
    runs (loaded 0x0 [0x1C44] [(4, 0x80), (0x5F, 0x01)])
      0x1 1 [(4, 0x01), (0x5F, 0x19)] = true := by decide

/-- V-SH-6: `LSR r4`. -/
theorem test_sh_6 :
    runs (loaded 0x0 [0x9446] [(4, 0x80), (0x5F, 0x04)])
      0x1 1 [(4, 0x40), (0x5F, 0x00)] = true := by decide

/-- V-SH-7: `ROR r4`. -/
theorem test_sh_7 :
    runs (loaded 0x0 [0x9447] [(4, 0x01), (0x5F, 0x01)])
      0x1 1 [(4, 0x80), (0x5F, 0x15)] = true := by decide

/-- V-SH-9: `ASR r4`. -/
theorem test_sh_9 :
    runs (loaded 0x0 [0x9445] [(4, 0x81)])
      0x1 1 [(4, 0xC0), (0x5F, 0x15)] = true := by decide

/-- V-SH-12: `SWAP r4`. -/
theorem test_sh_12 :
    runs (loaded 0x0 [0x9442] [(4, 0xA5), (0x5F, 0xFF)])
      0x1 1 [(4, 0x5A)] = true := by decide

/-- V-BIT-3: `BSET 6 (SET)`. -/
theorem test_bit_3 :
    runs (loaded 0x0 [0x9468] [(0x5F, 0x01)])
      0x1 1 [(0x5F, 0x41)] = true := by decide

/-- V-BIT-4: `BCLR 7 (CLI)`. -/
theorem test_bit_4 :
    runs (loaded 0x0 [0x94F8] [(0x5F, 0xFF)])
      0x1 1 [(0x5F, 0x7F)] = true := by decide

/-- V-BIT-7: `BST r5,3`. -/
theorem test_bit_7 :
    runs (loaded 0x0 [0xFA53] [(5, 0x08)])
      0x1 1 [(0x5F, 0x40)] = true := by decide

/-- V-BIT-9: `BLD r5,7`. -/
theorem test_bit_9 :
    runs (loaded 0x0 [0xF857] [(0x5F, 0x40)])
      0x1 1 [(5, 0x80)] = true := by decide

/-- V-BIT-10: `BLD r5,0`. -/
theorem test_bit_10 :
    runs (loaded 0x0 [0xF850] [(5, 0xFF)])
      0x1 1 [(5, 0xFE)] = true := by decide

/-- V-BIT-11: `SBI 5,3`. -/
theorem test_bit_11 :
    runs (loaded 0x0 [0x9A2B] [(0x25, 0x01)])
      0x1 2 [(0x25, 0x09)] = true := by decide

/-- V-BIT-12: `CBI 5,0`. -/
theorem test_bit_12 :
    runs (loaded 0x0 [0x9828] [(0x25, 0x09)])
      0x1 2 [(0x25, 0x08)] = true := by decide

/-- V-JMP-3: `RJMP .-2048`. -/
theorem test_jmp_3 :
    runs ({ loaded 0x0 [0xC800] [] with cfg := { Config.standard with romWords := 65536 } })
      0xF801 2 [] = true := by decide

/-- V-JMP-5: `IJMP`. -/
theorem test_jmp_5 :
    runs (loaded 0x10 [0x9409] [(30, 0x34), (31, 0x02)])
      0x234 2 [] = true := by decide

/-- V-JMP-6: `EIJMP`. -/
theorem test_jmp_6 :
    runs (loaded 0x5 [0x9419] [(30, 0x34), (31, 0x02)])
      0x6 1 [] = true := by decide

/-- V-JMP-8: `JMP 0x3F0123`. -/
theorem test_jmp_8 :
    runs (loaded 0x10 [0x95FD, 0x0123] [])
      0x123 3 [] = true := by decide

/-- V-JMP-9: `RCALL .+0x20`. -/
theorem test_jmp_9 :
    runs (loaded 0x100 [0xD020] [])
      0x121 3 [(0x5D, 0xFD), (0x8FE, 0x01), (0x8FF, 0x01)] = true := by decide

/-- V-JMP-11: `ICALL`. -/
theorem test_jmp_11 :
    runs (loaded 0x155 [0x9509] [(31, 0x02)])
      0x200 3 [(0x5D, 0xFD), (0x8FE, 0x01), (0x8FF, 0x56)] = true := by decide

/-- V-JMP-12: `EICALL`. -/
theorem test_jmp_12 :
    runs (loaded 0x155 [0x9519] [(31, 0x02)])
      0x156 1 [] = true := by decide

/-- V-JMP-13: `CALL 0x0200`. -/
theorem test_jmp_13 :
    runs (loaded 0x123 [0x940E, 0x0200] [])
      0x200 4 [(0x5D, 0xFD), (0x8FE, 0x01), (0x8FF, 0x25)] = true := by decide

/-- V-JMP-14: `RET`. -/
theorem test_jmp_14 :
    runs ({ loaded 0x20 [0x9508] [(0x5D, 0xFD), (0x8FE, 0x12), (0x8FF, 0x34)] with cfg := { Config.standard with romWords := 65536 } })
      0x1234 4 [(0x5D, 0xFF)] = true := by decide

/-- V-SKIP-1: `CPSE r1,r2`. -/
theorem test_skip_1 :
    runs (loaded 0x10 [0x1012] [(1, 0x07), (2, 0x07)])
      0x12 2 [] = true := by decide

/-- V-SKIP-2: `CPSE r1,r2`. -/
theorem test_skip_2 :
    runs (loaded 0x10 [0x1012, 0x940E] [(1, 0x07), (2, 0x07)])
      0x13 3 [] = true := by decide

/-- V-SKIP-5: `SBRC r3,7`. -/
theorem test_skip_5 :
    runs (loaded 0x10 [0xFC37, 0x9200] [(3, 0x7F)])
      0x13 3 [] = true := by decide

/-- V-SKIP-7: `SBRS r3,0`. -/
theorem test_skip_7 :
    runs (loaded 0x10 [0xFE30, 0x940C] [(3, 0x01)])
      0x13 3 [] = true := by decide

/-- V-SKIP-11: `SBIC 5,2`. -/
theorem test_skip_11 :
    runs (loaded 0x10 [0x992A, 0xC000] [(0x25, 0xFB)])
      0x12 2 [] = true := by decide

/-- V-SKIP-13: `SBIS 5,2`. -/
theorem test_skip_13 :
    runs (loaded 0x10 [0x9B2A, 0x91E0] [(0x25, 0x04)])
      0x13 3 [] = true := by decide

/-- V-BR-1: `BRBS 1,.-3 (BREQ)`. -/
theorem test_br_1 :
    runs (loaded 0x20 [0xF3E9] [(0x5F, 0x02)])
      0x1E 2 [] = true := by decide

/-- V-BR-2: `BRBS 1,.-3 (BREQ)`. -/
theorem test_br_2 :
    runs (loaded 0x20 [0xF3E9] [])
      0x21 1 [] = true := by decide

/-- V-BR-5: `BRBC 0,.+63 (BRCC)`. -/
theorem test_br_5 :
    runs (loaded 0x20 [0xF5F8] [(0x5F, 0x01)])
      0x21 1 [] = true := by decide

/-- V-MOV-1: `MOV r0,r31`. -/
theorem test_mov_1 :
    runs (loaded 0x0 [0x2E0F] [(31, 0x5A), (0x5F, 0xFF)])
      0x1 1 [(0, 0x5A)] = true := by decide

/-- V-MOV-2: `MOVW r24,r30`. -/
theorem test_mov_2 :
    runs (loaded 0x0 [0x01CF] [(30, 0xEF), (31, 0xBE)])
      0x1 1 [(24, 0xEF), (25, 0xBE)] = true := by decide

/-- V-MOV-4: `LDI r16,0xA5`. -/
theorem test_mov_4 :
    runs (loaded 0x0 [0xEA05] [])
      0x1 1 [(16, 0xA5)] = true := by decide

/-- V-MOV-6: `LDS r5,0x0123`. -/
theorem test_mov_6 :
    runs (loaded 0x0 [0x9050, 0x0123] [(0x123, 0x77)])
      0x2 2 [(5, 0x77)] = true := by decide

/-- V-MOV-11: `STS 0x005F,r6`. -/
theorem test_mov_11 :
    runs (loaded 0x0 [0x9260, 0x005F] [(6, 0x81)])
      0x2 2 [(0x5F, 0x81)] = true := by decide

/-- V-LD-1: `LD r0,X`. -/
theorem test_ld_1 :
    runs (loaded 0x0 [0x900C] [(26, 0x50), (27, 0x01), (0x150, 0x11)])
      0x1 2 [(0, 0x11)] = true := by decide

/-- V-LD-2: `LD r0,X+`. -/
theorem test_ld_2 :
    runs (loaded 0x0 [0x900D] [(26, 0xFF), (27, 0x01), (0x1FF, 0x22)])
      0x1 2 [(26, 0x00), (27, 0x02), (0, 0x22)] = true := by decide

/-- V-LD-3: `LD r0,-X`. -/
theorem test_ld_3 :
    runs (loaded 0x0 [0x900E] [(27, 0x02), (0x1FF, 0x22)])
      0x1 2 [(26, 0xFF), (27, 0x01), (0, 0x22)] = true := by decide

/-- V-LD-6: `LD r1,Y+`. -/
theorem test_ld_6 :
    runs (loaded 0x0 [0x9019] [(29, 0x01), (0x100, 0x44)])
      0x1 2 [(28, 0x01), (1, 0x44)] = true := by decide

/-- V-LD-7: `LD r1,-Y`. -/
theorem test_ld_7 :
    runs (loaded 0x0 [0x901A] [(28, 0x01), (29, 0x01), (0x100, 0x44)])
      0x1 2 [(28, 0x00), (1, 0x44)] = true := by decide

/-- V-LD-10: `LDD r1,Y+63`. -/
theorem test_ld_10 :
    runs (loaded 0x0 [0xAC1F] [(28, 0xF0), (29, 0xFF), (0x2F, 0x6D)])
      0x1 2 [(1, 0x6D)] = true := by decide

/-- V-LD-11: `LD r2,Z+`. -/
theorem test_ld_11 :
    runs (loaded 0x0 [0x9021] [(31, 0x01), (0x100, 0x44)])
      0x1 2 [(30, 0x01), (2, 0x44)] = true := by decide

/-- V-LD-12: `LD r2,-Z`. -/
theorem test_ld_12 :
    runs (loaded 0x0 [0x9022] [(30, 0x01), (31, 0x01), (0x100, 0x44)])
      0x1 2 [(30, 0x00), (2, 0x44)] = true := by decide

/-- V-LD-14: `LDD r2,Z+42`. -/
theorem test_ld_14 :
    runs (loaded 0x0 [0xA422] [(31, 0x01), (0x12A, 0x7E)])
      0x1 2 [(2, 0x7E)] = true := by decide

/-- V-ST-4: `ST X,r5`. -/
theorem test_st_4 :
    runs (loaded 0x0 [0x925C] [(26, 0x03), (5, 0xCD)])
      0x1 2 [(3, 0xCD)] = true := by decide

/-- V-ST-2: `ST X+,r7`. -/
theorem test_st_2 :
    runs (loaded 0x0 [0x927D] [(26, 0xFF), (27, 0x01), (7, 0xAB)])
      0x1 2 [(26, 0x00), (27, 0x02), (0x1FF, 0xAB)] = true := by decide

/-- V-ST-3: `ST -X,r7`. -/
theorem test_st_3 :
    runs (loaded 0x0 [0x927E] [(27, 0x02), (7, 0xAB)])
      0x1 2 [(26, 0xFF), (27, 0x01), (0x1FF, 0xAB)] = true := by decide

/-- V-ST-6: `ST Y+,r7`. -/
theorem test_st_6 :
    runs (loaded 0x0 [0x9279] [(29, 0x01), (7, 0xAB)])
      0x1 2 [(28, 0x01), (0x100, 0xAB)] = true := by decide

/-- V-ST-7: `ST -Y,r7`. -/
theorem test_st_7 :
    runs (loaded 0x0 [0x927A] [(28, 0x01), (29, 0x01), (7, 0xAB)])
      0x1 2 [(28, 0x00), (0x100, 0xAB)] = true := by decide

/-- V-ST-9: `STD Y+33,r7`. -/
theorem test_st_9 :
    runs (loaded 0x0 [0xA279] [(29, 0x01), (7, 0xAB)])
      0x1 2 [(0x121, 0xAB)] = true := by decide

/-- V-ST-10: `ST Z+,r7`. -/
theorem test_st_10 :
    runs (loaded 0x0 [0x9271] [(31, 0x01), (7, 0xAB)])
      0x1 2 [(30, 0x01), (0x100, 0xAB)] = true := by decide

/-- V-ST-11: `ST -Z,r7`. -/
theorem test_st_11 :
    runs (loaded 0x0 [0x9272] [(30, 0x01), (31, 0x01), (7, 0xAB)])
      0x1 2 [(30, 0x00), (0x100, 0xAB)] = true := by decide

/-- V-ST-13: `STD Z+63,r7`. -/
theorem test_st_13 :
    runs (loaded 0x0 [0xAE77] [(31, 0x01), (7, 0xAB)])
      0x1 2 [(0x13F, 0xAB)] = true := by decide

/-- V-LPM-1: `LPM`. -/
theorem test_lpm_1 :
    runs ({ loaded 0x0 [0x95C8] [(30, 0x40)] with rom := withCells (loaded 0x0 [0x95C8] [(30, 0x40)]).rom [(0x20, 0xBEEF)] })
      0x1 3 [(0, 0xEF)] = true := by decide

/-- V-LPM-3: `LPM r9,Z`. -/
theorem test_lpm_3 :
    runs ({ loaded 0x0 [0x9094] [(30, 0x41)] with rom := withCells (loaded 0x0 [0x9094] [(30, 0x41)]).rom [(0x20, 0xBEEF)] })
      0x1 3 [(9, 0xBE)] = true := by decide

/-- V-LPM-5: `LPM r9,Z+`. -/
theorem test_lpm_5 :
    runs ({ loaded 0x0 [0x9095] [(30, 0xFF), (31, 0xFF)] with rom := withCells (loaded 0x0 [0x9095] [(30, 0xFF), (31, 0xFF)]).rom [(0x7FFF, 0x1234)], cfg := { Config.standard with romWords := 65536 } })
      0x1 3 [(30, 0x00), (31, 0x00), (9, 0x12)] = true := by decide

/-- V-LPM-7: `ELPM`. -/
theorem test_lpm_7 :
    runs ({ loaded 0x0 [0x95D8] [(30, 0x41)] with rom := withCells (loaded 0x0 [0x95D8] [(30, 0x41)]).rom [(0x20, 0xBEEF)] })
      0x1 3 [(0, 0xBE)] = true := by decide

/-- V-LPM-8: `ELPM r9,Z`. -/
theorem test_lpm_8 :
    runs ({ loaded 0x0 [0x9096] [(30, 0x40)] with rom := withCells (loaded 0x0 [0x9096] [(30, 0x40)]).rom [(0x20, 0xBEEF)] })
      0x1 3 [(9, 0xEF)] = true := by decide

/-- V-LPM-9: `ELPM r9,Z+`. -/
theorem test_lpm_9 :
    runs ({ loaded 0x0 [0x9097] [(30, 0x41)] with rom := withCells (loaded 0x0 [0x9097] [(30, 0x41)]).rom [(0x20, 0xBEEF)] })
      0x1 3 [(30, 0x42), (9, 0xBE)] = true := by decide

/-- V-IO-1: `IN r4,0x3F`. -/
theorem test_io_1 :
    runs (loaded 0x0 [0xB64F] [(0x5F, 0xA5)])
      0x1 1 [(4, 0xA5)] = true := by decide

/-- V-IO-4: `OUT 0x3F,r4`. -/
theorem test_io_4 :
    runs (loaded 0x0 [0xBE4F] [(4, 0x80)])
      0x1 1 [(0x5F, 0x80)] = true := by decide

/-- V-IO-9: `PUSH r8`. -/
theorem test_io_9 :
    runs (loaded 0x0 [0x928F] [(0x5D, 0x00), (0x5E, 0x00), (8, 0xC3)])
      0x1 2 [(0x5D, 0xFF), (0x5E, 0xFF), (0, 0xC3)] = true := by decide

/-- V-IO-12: `POP r8`. -/
theorem test_io_12 :
    runs (loaded 0x0 [0x908F] [(0x5E, 0xFF), (0, 0x3C)])
      0x1 2 [(0x5D, 0x00), (0x5E, 0x00), (8, 0x3C)] = true := by decide

/-- V-RMW-1: `XCH Z,r5`. -/
theorem test_rmw_1 :
    runs (withRmw (loaded 0x0 [0x9254] [(31, 0x02), (5, 0x11), (0x200, 0xF0)]))
      0x1 2 [(5, 0xF0), (0x200, 0x11)] = true := by decide

/-- V-RMW-2: `LAS Z,r5`. -/
theorem test_rmw_2 :
    runs (withRmw (loaded 0x0 [0x9255] [(31, 0x02), (5, 0x11), (0x200, 0xF0)]))
      0x1 2 [(5, 0xF0), (0x200, 0xF1)] = true := by decide

/-- V-RMW-3: `LAC Z,r5`. -/
theorem test_rmw_3 :
    runs (withRmw (loaded 0x0 [0x9256] [(31, 0x02), (5, 0x30), (0x200, 0xF0)]))
      0x1 2 [(5, 0xF0), (0x200, 0xC0)] = true := by decide

/-- V-RMW-4: `LAT Z,r5`. -/
theorem test_rmw_4 :
    runs (withRmw (loaded 0x0 [0x9257] [(31, 0x02), (5, 0x33), (0x200, 0xF0)]))
      0x1 2 [(5, 0xF0), (0x200, 0xC3)] = true := by decide

/-- V-RMW-5: `(0x9254)`. -/
theorem test_rmw_5 :
    runs (loaded 0x0 [0x9254] [(31, 0x02), (5, 0x11), (0x200, 0xF0)])
      0x1 1 [] = true := by decide

/-- V-CTL-1: `NOP`. -/
theorem test_ctl_1 :
    runs (loaded 0x7 [0x0000] [(0x5F, 0xFF)])
      0x8 1 [] = true := by decide

/-- V-CTL-6: `DES 15`. -/
theorem test_ctl_6 :
    runs (loaded 0x0 [0x94FB] [(0, 0x12), (15, 0x34), (0x5F, 0x20)])
      0x1 1 [] = true := by decide

/-- V-CTL-7: `SPM`. -/
theorem test_ctl_7 :
    runs (loaded 0x0 [0x95E8] [(30, 0x40), (0, 0x34), (1, 0x12)])
      0x1 1 [] = true := by decide

/-- V-CTL-8: `SPM Z+`. -/
theorem test_ctl_8 :
    runs (loaded 0x0 [0x95F8] [(30, 0x40)])
      0x1 1 [] = true := by decide

/-- V-CTL-10: `(0xFFFF)`. -/
theorem test_ctl_10 :
    runs (loaded 0x40 [0xFFFF] [(31, 0x80)])
      0x41 1 [] = true := by decide

/-- V-MOV-9: `LDS r5,0x0900`. -/
theorem test_mov_9 :
    stepFaults (loaded 0x0 [0x9050, 0x0900] [])
      (.dataOutOfRange 0x0900) = true := by decide

/-- V-MOV-14: `STS 0xFFFF,r6`. -/
theorem test_mov_14 :
    stepFaults (loaded 0x0 [0x9260, 0xFFFF] [(6, 0x99)])
      (.dataOutOfRange 0xFFFF) = true := by decide

/-- V-LD-4: `LD r0,-X`. -/
theorem test_ld_4 :
    stepFaults (loaded 0x0 [0x900E] [])
      (.dataOutOfRange 0xFFFF) = true := by decide

/-- V-ST-14: `STD Z+1,r7`. -/
theorem test_st_14 :
    stepFaults (loaded 0x0 [0x8271] [(30, 0xFF), (31, 0x08), (7, 0xAB)])
      (.dataOutOfRange 0x0900) = true := by decide

/-- V-IO-8: `PUSH r8`. -/
theorem test_io_8 :
    stepFaults (loaded 0x0 [0x928F] [(0x5D, 0x00), (0x5E, 0x09), (8, 0xC3)])
      (.dataOutOfRange 0x0900) = true := by decide

/-- V-IO-11: `POP r8`. -/
theorem test_io_11 :
    stepFaults (loaded 0x0 [0x908F] [])
      (.dataOutOfRange 0x0900) = true := by decide

/-- V-JMP-17: `RET`. -/
theorem test_jmp_17 :
    stepFaults (loaded 0x20 [0x9508] [])
      (.dataOutOfRange 0x0900) = true := by decide

/-- V-JMP-18: `CALL 0x0200`. -/
theorem test_jmp_18 :
    stepFaults (loaded 0x10 [0x940E, 0x0200] [(0x5D, 0x00), (0x5E, 0x09)])
      (.dataOutOfRange 0x0900) = true := by decide

/-- V-LPM-6: `LPM`. -/
theorem test_lpm_6 :
    stepFaults ({ loaded 0x0 [0x95C8] [(31, 0x08)] with cfg := { Config.standard with romWords := 1024 } })
      (.programOutOfRange 0x0400) = true := by decide

/-- V-SKIP-9: `SBRS r3,0`. -/
theorem test_skip_9 :
    stepFaults ({ loaded 0x3FF [0xFE30] [(3, 0x01)] with cfg := { Config.standard with romWords := 1024 } })
      (.programOutOfRange 0x0400) = true := by decide

/-! ### Control outputs, interrupts, sleep -/

/-- `s` with request `v` pending, alone. -/
def pending (s : State) (v : Nat) : State :=
  { s with intPending := 1#32 <<< v, intPrio := BitVec.ofNat 8 v }

/-- V-CTL-2: `SLEEP`. -/
theorem test_ctl_2 :
    let s := loaded 0x30 [0x9588] []
    stepIs s { s with pc := 0x31, cycles := 1, ticks := 1, instructions := 1, asleep := true } = true := by decide

/-- V-CTL-3: `SLEEP` with a request pending and I set: taken in the same step. -/
theorem test_ctl_3 :
    let s := loaded 0x30 [0x9588] [(0x5F, 0x80)]
    stepIs (pending s 4)
      { s with
        dm := withCells s.dm [(0x5D, 0xFD), (0x5F, 0), (0x8FF, 0x31)]
        pc := 8, cycles := 1, ticks := 1, instructions := 1
        outputs := [.intEntry 4, .irqAck 4] } = true := by decide

/-- V-CTL-4: `WDR`. -/
theorem test_ctl_4 :
    let s := loaded 0x30 [0x95A8] []
    stepIs s { s with pc := 0x31, cycles := 1, ticks := 1, instructions := 1, outputs := [.wdr] } = true := by decide

/-- V-CTL-5: `BREAK`. -/
theorem test_ctl_5 :
    let s := loaded 0x30 [0x9598] []
    stepIs s { s with pc := 0x31, cycles := 1, ticks := 1, instructions := 1, outputs := [.brk] } = true := by decide

/-- V-JMP-15: `RETI`. -/
theorem test_jmp_15 :
    let s := { loaded 0x20 [0x9518] [(0x5D, 0xFD), (0x8FE, 0x12), (0x8FF, 0x34)] with
      cfg := { Config.standard with romWords := 65536 } }
    stepIs s
      { s with
        dm := withCells s.dm [(0x5D, 0xFF), (0x5F, 0x80)]
        pc := 0x1234, cycles := 4, ticks := 4, instructions := 1
        outputs := [.intExit] } = true := by decide

/-- V-JMP-16: `RETI` with a request pending: return, then the vector is taken in the same step. -/
theorem test_jmp_16 :
    let s := loaded 0x20 [0x9518] [(0x5D, 0xFD), (0x8FE, 0x00), (0x8FF, 0x40)]
    stepIs (pending s 3)
      { s with
        pc := 6, cycles := 4, ticks := 4, instructions := 1
        outputs := [.intEntry 3, .irqAck 3, .intExit] } = true := by decide

/-- V-JMP-19: `RCALL .+0` with `SP` 0: the second push faults. -/
theorem test_jmp_19 :
    stepFaults (loaded 0x10 [0xD000] [(0x5D, 0), (0x5E, 0)]) (.dataOutOfRange 0xFFFF) = true := by decide

/-- V-MOV-15: the second word of `LDS` lies outside program memory. -/
theorem test_mov_15 :
    stepFaults { loaded 0x3FF [0x9050] [] with cfg := { Config.standard with romWords := 0x400 } }
      (.programOutOfRange 0x400) = true := by decide

/-- V-INT-1, step 1: vectors 5 and 2 are raised, 2 is taken. -/
theorem test_int_1 :
    let s := loaded 0x100 [] [(0x5F, 0x80)]
    stepIs { s with schedule := [[.irqRaise 5, .irqRaise 2]] }
      { s with
        dm := withCells s.dm [(0x5D, 0xFD), (0x5F, 0), (0x8FE, 1), (0x8FF, 1)]
        pc := 4, cycles := 1, ticks := 1, instructions := 1, intPending := 0x20, intPrio := 5
        outputs := [.intEntry 2, .irqAck 2] } = true := by decide

/-- V-INT-6: clearing a vector that is not pending recomputes, with either setting of `INT_RECOMPUTE`. -/
theorem test_int_6 :
    let s := { loaded 0x100 [] [] with intPending := 0x208, intPrio := 3 }
    let high := { Config.standard with intRecompute := .highestFirst }
    irqClear s 20 = s ∧ irqClear { s with cfg := high } 20 = { s with cfg := high, intPrio := 9 } := by decide

/-- V-INT-10: entry after a two-word instruction pushes `pc + 2`. -/
theorem test_int_10 :
    let s := loaded 0x10 [0x9040, 0x0060] [(0x5F, 0x80)]
    stepIs { s with schedule := [[.irqRaise 1]] }
      { s with
        dm := withCells s.dm [(0x5D, 0xFD), (0x5F, 0), (0x8FF, 0x12)]
        pc := 2, cycles := 2, ticks := 2, instructions := 1
        outputs := [.intEntry 1, .irqAck 1] } = true := by decide

/-- V-INT-13: entry with `SP` 1: the pushes land in R1 and R0 and `SP` wraps. -/
theorem test_int_13 :
    let s := loaded 0x234 [] [(0x5D, 1), (0x5E, 0), (0x5F, 0x80)]
    stepIs { s with schedule := [[.irqRaise 2]] }
      { s with
        dm := withCells s.dm [(0, 0x02), (1, 0x35), (0x5D, 0xFF), (0x5E, 0xFF), (0x5F, 0)]
        pc := 4, cycles := 1, ticks := 1, instructions := 1
        outputs := [.intEntry 2, .irqAck 2] } = true := by decide

/-- V-INT-14: entry with `SP` 0. -/
theorem test_int_14 :
    stepFaults { loaded 0x10 [] [(0x5D, 0), (0x5E, 0), (0x5F, 0x80)] with schedule := [[.irqRaise 2]] }
      (.dataOutOfRange 0xFFFF) = true := by decide

/-- V-SLP-2: asleep, I set, a request arrives. -/
theorem test_slp_2 :
    let s := loaded 0x31 [] [(0x5F, 0x80)]
    stepIs { s with asleep := true, schedule := [[.irqRaise 6]] }
      { s with
        dm := withCells s.dm [(0x5D, 0xFD), (0x5F, 0), (0x8FF, 0x31)]
        pc := 0x0C, cycles := 1, ticks := 1
        outputs := [.intEntry 6, .irqAck 6] } = true := by decide

/-- V-SLP-3: asleep, I clear: a request does not wake the core. -/
theorem test_slp_3 :
    let s := { loaded 0x31 [] [] with asleep := true }
    stepIs { s with schedule := [[.irqRaise 6]] }
      { s with cycles := 1, ticks := 1, intPending := 0x40, intPrio := 6 } = true := by decide

/-! ### Handlers, callouts, refusals, the host's names -/

/-- A binding at data addresses 0x20 to 0x2F that handles reads and writes; its init callback writes one byte of its own and
one that is not. -/
def port : Binding where
  first := 0x20
  last := 0x2F
  onRead := true
  onWrite := true
  init := [(0x21, 0x0A), (0x30, 0x0B)]

/-- `s` with that binding. -/
def withPort (s : State) : State := { s with cfg := { s.cfg with bindings := [port] } }

/-- R69, U7: `IN r0,0` where a handler answers: the register takes the environment's value, `DM` keeps the stored byte. -/
theorem test_handled_read :
    let s := withPort (loaded 0 [] [(0x20, 0x5A)])
    exec (.in_ 0 0) s = .next
      { s with
        dm := s.dm.set 0 (Config.freeByte 0)
        pc := 1, cycles := 1, instructions := 1, draws := 1
        outputs := [.ioRead 0x20] } := rfl

/-- The outputs after an instruction that goes on. -/
def outputsAfter (i : Instr) (s : State) : Option (List Output) :=
  match exec i s with
  | .next t => some t.outputs
  | _ => none

/-- R70: `OUT 0x05,r4` where a handler is chained: the chain is invoked with the address and the byte. -/
theorem test_handled_write :
    outputsAfter (.out 0x05 4) (withPort (loaded 0 [] [(4, 0x77)])) = some [.ioWrite 0x25 0x77] := by decide

/-- R560, R563, R71: zeros, then what the loader gives, then what the init callback writes in its own bytes. -/
theorem test_construction :
    let s := State.construct { Config.standard with bindings := [port] }
      { program := [(0, 0x9478), (0x4000, 1)], data := [(0x21, 5), (0x100, 6), (0x900, 7)] }
    s.dm = [(0x21, 0x0A), (0x5D, 0xFF), (0x5E, 0x08), (0x100, 6)] ∧ s.rom = [(0, 0x9478)] := by decide

/-- R157: a clock callback changes a byte its binding owns, and no other. -/
theorem test_clock_callback :
    let s := withPort (loaded 0 [] [])
    stepIs { s with schedule := [[.ioByte 0x2F 7, .ioByte 0x30 9]] }
      { s with dm := s.dm.set 0x2F 7, pc := 1, cycles := 1, ticks := 1, instructions := 1 } = true := by decide

/-- R362: `LD r26,X+` is refused, `LD r26,X` is not. -/
theorem test_overlap_refused :
    exec (.ldXInc 26) State.reset = .refused .pointerOverlap ∧
      runs (loaded 0 [0x91AC] [(26, 0), (27, 2), (0x200, 0x42)]) 1 2 [(26, 0x42)] = true := ⟨rfl, by decide⟩

/-- R420, D15: without `HAS_RMW` the word of `XCH` is an unrecognised no-op. -/
theorem test_exchange_absent : runs (loaded 0 [0x9254] [(5, 9), (31, 2)]) 1 1 [] = true := by decide

/-- The host's word of a row, with operand bits above `nbits` zero. -/
theorem test_table_words :
    decodeTableWord 16 0x0C12 = some (.add 1 2) ∧ decodeTableWord 32 0x01239050 = some (.lds 5 0x0123) ∧
      decodeTableWord 16 0x9050 = some (.lds 5 0) ∧ decodeTableWord 16 0x9254 = some (.xch 5) ∧
      decodeTableWord 16 0x0001 = none := by decide

/-- The step after placing runs that instruction, `XCH` included. -/
theorem test_placed_instruction_runs :
    let s := State.reset.withFetchWord 32 0x02009260
    let t := State.reset.withFetchWord 16 0x9254
    runs s 2 2 [] = true ∧ runs t 1 2 [] = true := by decide

/-! ### Witnesses: a concrete state and operands that meet the premises of each statement, clause by clause -/

/-- A state with data in registers, `SREG`, I/O and RAM, `SP` at 0x0180. -/
def sample : State :=
  loaded 0x100 [0x0C12] [(0, 1), (1, 2), (26, 0x60), (31, 4), (0x35, 0x55), (0x5D, 0x80), (0x5E, 0x01), (0x5F, 0x81),
    (0x180, 9)]

/-- `sample` with `SP` replaced. -/
def atSp (sp : Word) : State := sample.setSp sp

/-- `sample` with a pointer replaced. -/
def atPair (d : Reg) (v : Word) : State := sample.setPair d v

theorem witness_AdditionsGiveSumAndFlags : sample.dm.wf = true := by decide
theorem witness_SubtractionsGiveDifferenceAndFlags : sample.dm.wf = true := by decide
theorem witness_ComparesWriteFlagsOnly : sample.dm.wf = true := by decide
theorem witness_LogicGivesResultAndFlags : sample.dm.wf = true := by decide
theorem witness_OneOperandArithmetic : sample.dm.wf = true := by decide
theorem witness_WordImmediatesGiveResultAndFlags : sample.dm.wf = true := by decide
theorem witness_MultipliesStoreExactProduct : sample.dm.wf = true := by decide
theorem witness_ShiftsGiveResultAndFlags : sample.dm.wf = true := by decide
theorem witness_FlagInstructionsPutOneFlag : sample.dm.wf = true := by decide
theorem witness_BitCopiesThroughT : sample.dm.wf = true := by decide
theorem witness_RegisterMoves : sample.dm.wf = true := by decide

theorem witness_IoBitWrites :
    sample.cfg.Legal ∧ sample.dm.wf = true ∧
      sample.PlainAt (BitVec.ofNat 16 ((0 : BitVec 5).toNat + 32)) ∧
      sample.PlainAt (BitVec.ofNat 16 ((31 : BitVec 5).toNat + 32)) := by decide

theorem witness_CallsPushReturnAddress :
    (sample.dm.wf = true ∧ (atSp 0x08FF).Reaches (atSp 0x08FF).sp ∧ (atSp 0x08FF).Reaches ((atSp 0x08FF).sp - 1)) ∧
      (atSp 1).dm.wf = true ∧ (atSp 1).Reaches (atSp 1).sp ∧ (atSp 1).Reaches ((atSp 1).sp - 1) := by decide

/-- `SP` 0x0900 for the first clause, `SP` 0 for the second, an interrupt to take in both. -/
theorem witness_PushFaultIsTheFirstWrite :
    let s := pending (atSp 0x0900) 3
    let t := pending (atSp 0) 3
    (s.cfg.CoreOnly ∧ s.cfg.dataSize ≤ s.sp.toNat ∧ s.flags.i = true ∧ s.intPending ≠ 0) ∧
      t.cfg.CoreOnly ∧ t.sp.toNat < t.cfg.dataSize ∧ t.cfg.dataSize ≤ (t.sp - 1).toNat ∧ t.flags.i = true ∧
      t.intPending ≠ 0 := by decide

/-- `SP` 0x08FD is the last that pops, 0x08FF faults on the first read, 0x08FE on the second. -/
theorem witness_ReturnsPopTheProgramCounter :
    let s := atSp 0x08FD
    let t := atSp 0x08FF
    let u := atSp 0x08FE
    (s.dm.wf = true ∧ (s.sp + 1).toNat < s.cfg.dataSize ∧ (s.sp + 2).toNat < s.cfg.dataSize ∧
      s.cfg.readChained (s.sp + 1).toNat = false ∧ s.cfg.readChained (s.sp + 2).toNat = false) ∧
      (t.dm.wf = true ∧ t.cfg.dataSize ≤ (t.sp + 1).toNat) ∧
      u.dm.wf = true ∧ (u.sp + 1).toNat < u.cfg.dataSize ∧ u.cfg.dataSize ≤ (u.sp + 2).toNat := by decide

theorem witness_CallThenReturnComesBack :
    (atSp 0x08FF).dm.wf = true ∧ StackClear (atSp 0x08FF) ∧ (atSp 1).dm.wf = true ∧ StackClear (atSp 1) ∧
      StackClear (atSp 0x60) := by decide

/-- Each arm of the three skips: not taken, taken, taken at the last word. -/
theorem witness_RegisterSkips :
    let s := sample
    let t : State := { sample with pc := 0x3FFF }
    decide ((s.reg 0).toNat = (s.reg 1).toNat) = false ∧ decide ((s.reg 2).toNat = (s.reg 3).toNat) = true ∧
      (!(s.reg 0).getLsbD 0) = false ∧ (!(s.reg 0).getLsbD 7) = true ∧
      (s.reg 0).getLsbD 7 = false ∧ (s.reg 0).getLsbD 0 = true ∧
      (s.pc + 1).toNat < s.cfg.romWords ∧ t.cfg.romWords ≤ (t.pc + 1).toNat ∧
      decide ((t.reg 2).toNat = (t.reg 3).toNat) = true ∧ (!(t.reg 0).getLsbD 7) = true ∧ (t.reg 0).getLsbD 0 = true := by
  decide

theorem witness_IoSkips :
    let s := sample
    let t : State := { sample with pc := 0x3FFF }
    s.cfg.Legal ∧ s.cfg.readChained ((0 : BitVec 5).toNat + 32) = false ∧
      s.cfg.readChained ((31 : BitVec 5).toNat + 32) = false ∧
      (!(s.byte ((0x15 : BitVec 5).toNat + 32)).getLsbD 0) = false ∧ (s.byte ((0x15 : BitVec 5).toNat + 32)).getLsbD 0 = true ∧
      (!(s.byte ((0x15 : BitVec 5).toNat + 32)).getLsbD 7) = true ∧ (s.byte ((0x15 : BitVec 5).toNat + 32)).getLsbD 7 = false ∧
      (s.pc + 1).toNat < s.cfg.romWords ∧ t.cfg.romWords ≤ (t.pc + 1).toNat := by decide

theorem witness_DirectLoadAndStore :
    let s := sample
    s.dm.wf = true ∧ (0x08FF : Word).toNat < s.cfg.dataSize ∧ s.cfg.readChained (0x08FF : Word).toNat = false ∧
      s.cfg.dataSize ≤ (0x0900 : Word).toNat ∧ s.Reaches 0x08FF ∧ s.Reaches 0 ∧
      s.cfg.callouts.contains (0x0900 : Word).toNat = false := by decide

/-- Every pointer at the last valid address and one past it, with no displacement and with 63. -/
theorem witness_PlainIndirectLoads :
    ([26, 28, 30] : List Reg).all (fun p => ([0, 63] : List Nat).all fun n =>
      let s := atPair p (BitVec.ofNat 16 (0x08FF - n))
      let t := atPair p (BitVec.ofNat 16 (0x0900 - n))
      let a := BitVec.ofNat 16 ((s.pair p).toNat + n)
      let b := BitVec.ofNat 16 ((t.pair p).toNat + n)
      s.dm.wf && decide (a.toNat < s.cfg.dataSize) && !s.cfg.readChained a.toNat &&
        t.dm.wf && decide (t.cfg.dataSize ≤ b.toNat)) = true := by decide

/-- Every pointer at the boundary before and after its step, with the data registers next to the pointer. -/
theorem witness_MovingIndirectLoads :
    ([26, 28, 30] : List Reg).all (fun p => ([0, 1] : List Nat).all fun n =>
      let s := atPair p (BitVec.ofNat 16 (0x08FF + n))
      let t := atPair p (BitVec.ofNat 16 (0x0900 + n))
      let a := s.pair p - BitVec.ofNat 16 n
      let b := t.pair p - BitVec.ofNat 16 n
      s.dm.wf && decide (a.toNat < s.cfg.dataSize) && !s.cfg.readChained a.toNat &&
        t.dm.wf && decide (t.cfg.dataSize ≤ b.toNat) &&
        decide ((p - 1).val ≠ p.val ∧ (p - 1).val ≠ p.val + 1) &&
        decide ((0 : Reg).val ≠ p.val ∧ (0 : Reg).val ≠ p.val + 1)) = true := by decide

theorem witness_PlainIndirectStores :
    ([26, 28, 30] : List Reg).all (fun p => ([0, 63] : List Nat).all fun n =>
      let s := atPair p (BitVec.ofNat 16 (0x08FF - n))
      let t := atPair p (BitVec.ofNat 16 (0x0900 - n))
      let b := BitVec.ofNat 16 ((t.pair p).toNat + n)
      s.dm.wf && decide (s.Reaches (BitVec.ofNat 16 ((s.pair p).toNat + n))) &&
        t.dm.wf && decide (t.cfg.dataSize ≤ b.toNat) && !t.cfg.callouts.contains b.toNat) = true := by decide

theorem witness_MovingIndirectStores :
    ([26, 28, 30] : List Reg).all (fun p => ([0, 1] : List Nat).all fun n =>
      let s := atPair p (BitVec.ofNat 16 (0x08FF + n))
      let t := atPair p (BitVec.ofNat 16 (0x0900 + n))
      let b := t.pair p - BitVec.ofNat 16 n
      s.dm.wf && decide (s.Reaches (s.pair p - BitVec.ofNat 16 n)) &&
        t.dm.wf && decide (t.cfg.dataSize ≤ b.toNat) && !t.cfg.callouts.contains b.toNat &&
        decide ((p - 1).val ≠ p.val ∧ (p - 1).val ≠ p.val + 1) &&
        decide ((0 : Reg).val ≠ p.val ∧ (0 : Reg).val ≠ p.val + 1)) = true := by decide

theorem witness_OnlyOverlapsAreRefused :
    (overlapping (.ldXInc 26) = true ∧ overlapping (.stXDec 27) = true ∧ overlapping (.ldYDec 28) = true ∧
      overlapping (.stYInc 29) = true ∧ overlapping (.lpmZInc 30) = true ∧ overlapping (.elpmZInc 31) = true ∧
      overlapping (.ldXInc 25) = false) ∧
      exec (.elpmZInc 31) sample = .refused .pointerOverlap := ⟨by decide, rfl⟩

theorem witness_ProgramMemoryLoads :
    let s := atPair 30 0x7FFF
    let t := atPair 30 0x8000
    (s.dm.wf = true ∧ (s.pair 30).toNat / 2 < s.cfg.romWords) ∧
      t.dm.wf = true ∧ t.cfg.romWords ≤ (t.pair 30).toNat / 2 ∧ (29 : Reg).val ≠ 30 ∧ (29 : Reg).val ≠ 31 := by decide

/-- `IN` beside a write chain and a callout, `OUT` beside a read chain, at the first and the last I/O address. -/
theorem witness_IoReadAndWrite :
    let all : Binding := { first := 0, last := 65535, onRead := true, onWrite := false, init := [] }
    let s := { sample with
      cfg := { Config.standard with bindings := [{ all with onRead := false, onWrite := true }], callouts := [32, 95] } }
    let t := { sample with cfg := { Config.standard with bindings := [all] } }
    s.cfg.Legal ∧ s.dm.wf = true ∧ s.cfg.readChained ((0 : BitVec 6).toNat + 32) = false ∧
      s.cfg.readChained ((63 : BitVec 6).toNat + 32) = false ∧ s.cfg.writeChained 32 = true ∧
      t.cfg.Legal ∧ t.dm.wf = true ∧ t.cfg.writeChained ((0 : BitVec 6).toNat + 32) = false ∧
      t.cfg.writeChained ((63 : BitVec 6).toNat + 32) = false ∧ t.cfg.callouts.contains 32 = false ∧
      t.cfg.callouts.contains 95 = false ∧ t.cfg.readChained 32 = true := by decide

/-- A handled address, a plain one with a callout, and a skip whose next word is past the end of program memory. -/
theorem witness_IoInstructionsCompleteUnderAnyEnvironment :
    let s := { sample with cfg := { Config.standard with bindings := [port], callouts := [0x35] } }
    let t : State := { sample with pc := 0x3FFF }
    s.cfg.Legal ∧ s.dm.wf = true ∧ s.cfg.readChained 0x20 = true ∧ s.cfg.writeChained 0x2F = true ∧
      s.cfg.callouts.contains 0x35 = true ∧ (s.pc + 1).toNat < s.cfg.romWords ∧
      t.cfg.Legal ∧ t.dm.wf = true ∧ (observed t 0x35).getLsbD 0 = true ∧ t.cfg.romWords ≤ (t.pc + 1).toNat := by decide

theorem witness_PushAndPop :
    let s := atSp 0x08FF
    let t := atSp 0x0900
    let u := atSp 0x08FE
    (s.dm.wf = true ∧ s.Reaches s.sp ∧ s.cfg.dataSize ≤ (s.sp + 1).toNat) ∧
      (t.dm.wf = true ∧ t.cfg.dataSize ≤ t.sp.toNat ∧ t.cfg.callouts.contains t.sp.toNat = false) ∧
      u.dm.wf = true ∧ (u.sp + 1).toNat < u.cfg.dataSize ∧ u.cfg.readChained (u.sp + 1).toNat = false := by decide

theorem witness_PushThenPopCopies :
    ([0x08FF, 0, 0x5C, 0x5F] : List Word).all (fun sp =>
      let s := atSp sp
      s.dm.wf && decide (s.Reaches s.sp) && decide (s.sp.toNat ≠ splAddr ∧ s.sp.toNat ≠ sphAddr)) = true := by decide

theorem witness_ReadModifyWriteThroughZ :
    let s := atPair 30 0x08FF
    let t := atPair 30 0x0900
    (s.dm.wf = true ∧ s.Reaches (s.pair 30)) ∧ t.dm.wf = true ∧ t.cfg.dataSize ≤ (t.pair 30).toNat := by decide

/-- A handled store, a handled load, a push and a return that go on; bytes they leave alone. -/
theorem witness_DataAccessFrame :
    let s := withPort (atPair 26 0x20)
    s.dm.wf = true ∧
      (dataAccesses (.stXInc 25) s ≠ [] ∧ s.cfg.Spares 0x20 0x30 ∧ ∃ t, exec (.stXInc 25) s = .next t) ∧
      (dataAccesses (.ldXDec 28) s ≠ [] ∧ 0x1F ∉ directBytes (.ldXDec 28) ∧ ∃ t, exec (.ldXDec 28) s = .next t) ∧
      (dataAccesses (.push 1) s ≠ [] ∧ s.cfg.Spares s.sp 0x17F ∧ ∃ t, exec (.push 1) s = .next t) ∧
      dataAccesses .reti s ≠ [] ∧ 0x2F ∉ directBytes .reti ∧ ∃ t, exec .reti s = .next t :=
  ⟨by decide, ⟨by decide, by decide, _, rfl⟩, ⟨by decide, by decide, _, rfl⟩, ⟨by decide, by decide, _, rfl⟩,
    by decide, by decide, _, rfl⟩

theorem witness_DecodeOfEncode :
    (Instr.adiw 30 63).wellFormed = true ∧ (Instr.jmp 0x3FFFFF).wellFormed = true ∧ (Instr.ser 16).wellFormed = true := by
  decide

theorem witness_EncodeOfDecode :
    decodeWords true 0x9254 0 = some (.xch 5) ∧ decodeWords false 0xFFF7 0 = some (.sbrs 31 7) ∧
      decodeWords false 0x95FF 0xFFFF = some (.call 0x3FFFFF) := by decide

/-- The boundaries of the first listed set, and both settings of `HAS_RMW`. -/
theorem witness_UnrecognisedWordsAreTheListedSets :
    unrecognisedWord false 0x0000 = false ∧ unrecognisedWord false 0x0001 = true ∧ unrecognisedWord false 0x00FF = true ∧
      unrecognisedWord false 0x0100 = false ∧ unrecognisedWord true 0x9204 = false ∧
      unrecognisedWord false 0x9204 = true ∧ unrecognisedWord true 0xFFFF = true := by decide

/-- Each clause: an instruction that goes on, one that faults, one that is refused, an unrecognised word. -/
theorem witness_StepRunsDecodedInstruction :
    let ready := fun (s : State) (i : Option Instr) =>
      s.asleep = false ∧ Fetchable s ∧ decodeWords s.cfg.hasRmw (s.rom.get s.pc.toNat) (secondWord s) = i
    let s := loaded 0x3FFF [0x0C12] []
    let f := loaded 0 [0x9050, 0x0900] []
    let r := loaded 0 [0x91AD] []
    (ready s (some (.add 1 2)) ∧ ∃ t, exec (.add 1 2) s = .next t) ∧
    (ready f (some (.lds 5 0x0900)) ∧ exec (.lds 5 0x0900) f = .fault (.dataOutOfRange 0x0900)) ∧
    (ready r (some (.ldXInc 26)) ∧ exec (.ldXInc 26) r = .refused .pointerOverlap) ∧
    ready (loaded 0 [0x00FF] []) none :=
  ⟨⟨by decide, ⟨_, rfl⟩⟩, ⟨by decide, rfl⟩, ⟨by decide, rfl⟩, by decide⟩

theorem witness_FetchOutsideProgramMemoryFaults :
    let s := loaded 0x4000 [] []
    let t := loaded 0x3FFF [0x9050] []
    (s.asleep = false ∧ s.cfg.romWords ≤ s.pc.toNat) ∧
      t.asleep = false ∧ t.pc.toNat < t.cfg.romWords ∧ wordSize (t.rom.get t.pc.toNat) = 2 ∧
      t.cfg.romWords ≤ (t.pc + 1).toNat := by decide

theorem witness_StraightLineAdvancesBySize :
    transfersControl (.sts 0x0200 6) = false ∧ transfersControl (.add 1 2) = false ∧
      (∃ t, exec (.sts 0x0200 6) sample = .next t) ∧ ∃ t, exec (.add 1 2) sample = .next t :=
  ⟨by decide, by decide, ⟨_, rfl⟩, ⟨_, rfl⟩⟩

theorem witness_CyclesFollowTheTable :
    (∃ t, exec (.brbs 0 5) sample = .next t) ∧ (∃ t, exec (.cpse 2 3) sample = .next t) ∧
      ∃ t, exec (.call 0x123) sample = .next t :=
  ⟨⟨_, rfl⟩, ⟨_, rfl⟩, ⟨_, rfl⟩⟩

/-- An instruction that writes no data, and stores next to `SREG` and at an address a binding handles. -/
theorem witness_FlagsChangeOnlyByTheTable :
    let s := withPort sample
    s.dm.wf = true ∧ (writesData (.adiw 24 1) = false ∧ (5 : Fin 8) ∉ flagsWritten (.adiw 24 1) ∧
      ∃ t, exec (.adiw 24 1) s = .next t) ∧
      (dataAccesses (.sts 0x60 1) s = [0x60] ∧ s.cfg.Spares 0x60 sregAddr ∧ ∃ t, exec (.sts 0x60 1) s = .next t) ∧
      dataAccesses (.out 0 1) s = [0x20] ∧ s.cfg.Spares 0x20 sregAddr ∧ ∃ t, exec (.out 0 1) s = .next t :=
  ⟨by decide, ⟨by decide, by decide, _, rfl⟩, ⟨by decide, by decide, _, rfl⟩, by decide, by decide, _, rfl⟩

theorem witness_FaultsComeFromTheListedInstructions :
    sample.cfg.Legal ∧ exec (.lds 5 0x0900) sample = .fault (.dataOutOfRange 0x0900) ∧
      exec (.cpse 2 3) { sample with pc := 0x3FFF } = .fault (.programOutOfRange 0x4000) :=
  ⟨by decide, rfl, rfl⟩

/-- A binding over 0 to 65535: the I/O space is routed and nothing else. -/
theorem witness_MemReadRoutes :
    let s := { sample with cfg := { Config.standard with bindings := [{ port with first := 0, last := 65535 }] } }
    s.cfg.readChained 31 = false ∧ s.cfg.readChained 32 = true ∧ s.cfg.readChained 255 = true ∧
      s.cfg.readChained 256 = false ∧ (0x08FF : Word).toNat < s.cfg.dataSize ∧
      s.cfg.dataSize ≤ (0x0900 : Word).toNat := by decide

/-- The address of a callout and of no callout, in range and out of it, handled and not. -/
theorem witness_MemWriteRoutes :
    let s := { sample with cfg := { Config.standard with bindings := [port], callouts := [0x08FF, 0x0900] } }
    s.dm.wf = true ∧ s.cfg.callouts.contains 0x08FF = true ∧ s.cfg.callouts.contains 0x08FE = false ∧
      (0x08FF : Word).toNat < s.cfg.dataSize ∧ s.cfg.dataSize ≤ (0x0900 : Word).toNat ∧
      s.cfg.writeChained 0x1F = false ∧ s.cfg.writeChained 0x20 = true := by decide

theorem witness_RecomputeFindsTheExtremePending : (0 : BitVec 32) = 0 ∧ (0x80000001 : BitVec 32) ≠ 0 := by decide

theorem witness_ServiceTakesThePendingVector :
    let s := pending (atSp 0x08FF) 31
    let t := pending (atSp 1) 0
    (s.dm.wf = true ∧ s.flags.i = true ∧ s.intPending ≠ 0 ∧ s.Reaches s.sp ∧ s.Reaches (s.sp - 1)) ∧
      (t.dm.wf = true ∧ t.flags.i = true ∧ t.intPending ≠ 0 ∧ t.Reaches t.sp ∧ t.Reaches (t.sp - 1)) ∧
      sample.intPending = 0 := by decide

theorem witness_EntryThenRetiResumes :
    ([0x08FF, 1, 0x61] : List Word).all (fun sp =>
      let s := pending (atSp sp) 7
      s.dm.wf && decide (StackClear s) && decide (s.sp.toNat ≠ sregAddr ∧ (s.sp - 1).toNat ≠ sregAddr) &&
        s.flags.i && decide (s.intPending ≠ 0)) = true := by decide

theorem witness_AsleepStepIdles :
    let s := { sample with asleep := true }
    s.asleep = true ∧ s.schedule = [] ∧ (s.flags.i = false ∨ s.intPending = 0) := by decide

/-- `SLEEP` enters; a step idles, one wakes, one is kept asleep with I clear. -/
theorem witness_SleepIsLeftOnlyByInterrupt :
    let s : State := { loaded 0x31 [] [] with asleep := true, schedule := [[.irqRaise 6]] }
    let w : State := { loaded 0x31 [] [(0x5F, 0x80)] with asleep := true, schedule := [[.irqRaise 6]] }
    (sample.asleep = false ∧ ∃ t, exec .sleep sample = .next t ∧ t.asleep = true) ∧
      (s.asleep = true ∧ s.cfg.bindings = [] ∧ s.flags.i = false ∧ ∃ t, step s = .next t ∧ t.asleep = true) ∧
      w.asleep = true ∧ ∃ t, step w = .next t ∧ t.asleep = false :=
  ⟨⟨by decide, _, rfl, rfl⟩, ⟨by decide, by decide, by decide, _, rfl, rfl⟩, by decide, _, rfl, rfl⟩

theorem witness_StepKeepsInvariant : sample.Inv ∧ ∃ t, step sample = .next t := ⟨by decide, ⟨_, rfl⟩⟩

theorem witness_ResetMeetsInvariant :
    Config.standard.Legal ∧ { Config.standard with romWords := 1, dataSize := 257, spInit := 0 }.Legal ∧
      { Config.standard with romWords := 65536, dataSize := 65536, spInit := 0xFFFF }.Legal := by decide

/-- An address that exists and none that binds or loads. -/
theorem witness_ResetValues :
    let c := Config.standard
    0x08FF < c.dataSize ∧ 0x3FFF < c.romWords ∧ c.bindings = [] ∧ State.reset.dm.wf = true := by decide

theorem witness_ProgramAndConfigurationAreFixed : ∃ t, step (loaded 0 [0x95F8] []) = .next t := ⟨_, rfl⟩

theorem witness_TicksEqualCyclesOfTheStep :
    (∃ t, step (loaded 0 [0x940E, 0x0200] []) = .next t) ∧ ∃ t, step { sample with asleep := true } = .next t :=
  ⟨⟨_, rfl⟩, ⟨_, rfl⟩⟩

end Sys2Proof.Tests
end

section
/-! PROOFS. What an instruction may change, said once for all 142 of them (spec/40 R154 to R156): the data space, `pc`, the
counters, the outputs and the count of free values; `SLEEP` alone writes the asleep flag. -/

namespace Sys2Proof.Machine

theorem wordSize_le_two (w : Word) : wordSize w ≤ 2 := by
  unfold wordSize
  dsimp only
  split <;> omega

/-! ### What may follow a data step

R24: a direct write passes no bound check. `DataStep.below` supposes a legal configuration itself, so none is needed here. -/

namespace DataStep

variable {s u : State}

/-- Registers, `SPL`, `SPH` and `SREG` lie below every legal `DATA_SIZE` (R8). -/
theorem then_setByte (h : DataStep s u) {a : Nat} (ha : a < 257) (v : Byte) : DataStep s (u.setByte a v) :=
  h.trans ⟨rfl, Memory.set_wf, fun hl => Memory.set_below (Nat.lt_of_lt_of_le ha hl.2.2.1)⟩

theorem then_setReg (h : DataStep s u) (d : Reg) (v : Byte) : DataStep s (u.setReg d v) :=
  h.then_setByte (by have := d.isLt; omega) v

theorem then_setPair (h : DataStep s u) (d : Reg) (v : Word) : DataStep s (u.setPair d v) :=
  (h.then_setByte (by have := d.isLt; omega) v.lo).then_setByte (by have := d.isLt; omega) v.hi

theorem then_setFlags (h : DataStep s u) (f : Flags) : DataStep s (u.setFlags f) :=
  h.then_setByte (by decide) f.toByte

theorem then_setSp (h : DataStep s u) (v : Word) : DataStep s (u.setSp v) :=
  (h.then_setByte (by decide) v.lo).then_setByte (by decide) v.hi

theorem then_emit (h : DataStep s u) (o : Output) : DataStep s (u.emit o) := h.trans .emit

theorem then_memRead {t : State} {a : Word} {v : Byte} (h : DataStep s u) (hr : memRead u a = .next (v, t)) :
    DataStep s t := h.trans (memRead_next hr).2.1

theorem then_memWrite {t : State} {a : Word} {v : Byte} (h : DataStep s u) (hw : memWrite u a v = .next t) :
    DataStep s t := h.trans (memWrite_next hw).1

/-- R301: `pushRet_next` without its premise of a legal configuration, as every step needs it. -/
theorem of_pushRet {t : State} {ret : Word} (h : pushRet s ret = .next t) : DataStep s t := by
  obtain ⟨s1, h1, h⟩ := Res.bind_eq_next.mp h
  obtain ⟨s2, h2, h⟩ := Res.bind_eq_next.mp h
  cases h
  exact ((refl.then_memWrite h1).then_memWrite h2).then_setSp _

/-- R302: `popRet_next` without its premise of a legal configuration. -/
theorem of_popRet {t : State} {ret : Word} (h : popRet s = .next (ret, t)) : DataStep s t := by
  obtain ⟨⟨hi, s1⟩, h1, h⟩ := Res.bind_eq_next.mp h
  obtain ⟨⟨lo, s2⟩, h2, h⟩ := Res.bind_eq_next.mp h
  cases h
  exact ((refl.then_memRead h1).then_memRead h2).then_setSp _

/-- R360: the pointer update before an indirect access. -/
theorem then_updateBefore (h : DataStep s u) (p : Pointer) (a : Word) (f : Form) : DataStep s (updateBefore u p a f) := by
  cases f with
  | preDec => exact h.then_setPair _ _
  | plain | postInc | disp => exact h

/-- R360: the pointer update after an indirect access. -/
theorem then_updateAfter (h : DataStep s u) (p : Pointer) (a : Word) (f : Form) : DataStep s (updateAfter u p a f) := by
  cases f with
  | postInc => exact h.then_setPair _ _
  | plain | preDec | disp => exact h

end DataStep

/-! ### The instruction shapes -/

/-- An instruction begun in `s` is complete: after its data accesses it sets `pc`, adds 1 to 4 cycles and counts itself
(R155, R156, R580). -/
inductive Retires (s : State) : State → Prop
  | intro {u : State} {target : Word} {n : Nat} (data : DataStep s u) (pos : 1 ≤ n) (le : n ≤ 4) :
    Retires s (u.retire target n)

section shapes

variable {s t : State}

theorem Retires.of_next {u : State} {target : Word} {n : Nat} (data : DataStep s u) (hn : 1 ≤ n ∧ n ≤ 4)
    (h : (.next (u.retire target n) : Res State) = .next t) : Retires s t := by
  cases h
  exact .intro data hn.1 hn.2

theorem retires_of_retire {target : Word} {n : Nat} (hn : 1 ≤ n ∧ n ≤ 4)
    (h : (.next (s.retire target n) : Res State) = .next t) : Retires s t :=
  .of_next .refl hn h

theorem retires_of_noOperation (h : noOperation s = .next t) : Retires s t := retires_of_retire (by decide) h

theorem retires_of_writeRegFlags {d : Reg} {v : Byte} {f : Flags} (h : writeRegFlags s d v f = .next t) : Retires s t :=
  .of_next ((DataStep.refl.then_setFlags f).then_setReg d v) (by decide) h

theorem retires_of_writeFlags {f : Flags} (h : writeFlags s f = .next t) : Retires s t :=
  .of_next (DataStep.refl.then_setFlags f) (by decide) h

theorem retires_of_writeReg {d : Reg} {v : Byte} (h : writeReg s d v = .next t) : Retires s t :=
  .of_next (DataStep.refl.then_setReg d v) (by decide) h

/-- The word results: `ADIW`, `SBIW` and the multiplies. -/
theorem retires_of_writePairFlags {d : Reg} {v : Word} {f : Flags}
    (h : (.next (((s.setFlags f).setPair d v).retireNext 2) : Res State) = .next t) : Retires s t :=
  .of_next ((DataStep.refl.then_setFlags f).then_setPair d v) (by decide) h

theorem retires_of_loadIndirect {p : Pointer} {f : Form} {d : Reg} (h : loadIndirect s p f d = .next t) :
    Retires s t := by
  unfold loadIndirect at h
  split at h
  · cases h
  · obtain ⟨⟨v, s1⟩, hr, h⟩ := Res.bind_eq_next.mp h
    exact .of_next ((((DataStep.refl.then_updateBefore p _ f).then_memRead hr).then_updateAfter p _ f).then_setReg d v)
      (by decide) h

theorem retires_of_storeIndirect {p : Pointer} {f : Form} {r : Reg} (h : storeIndirect s p f r = .next t) :
    Retires s t := by
  unfold storeIndirect at h
  split at h
  · cases h
  · obtain ⟨s1, hw, h⟩ := Res.bind_eq_next.mp h
    exact .of_next (((DataStep.refl.then_updateBefore p _ f).then_memWrite hw).then_updateAfter p _ f) (by decide) h

theorem retires_of_loadProgram {f : Form} {d : Reg} (h : loadProgram s f d = .next t) : Retires s t := by
  unfold loadProgram at h
  split at h
  · cases h
  · obtain ⟨v, -, h⟩ := Res.bind_eq_next.mp h
    exact .of_next ((DataStep.refl.then_updateAfter .z _ f).then_setReg d v) (by decide) h

theorem retires_of_exchangeZ {d : Reg} {f : Byte → Byte → Byte} (h : exchangeZ s d f = .next t) : Retires s t := by
  obtain ⟨⟨old, s1⟩, hr, h⟩ := Res.bind_eq_next.mp h
  obtain ⟨s2, hw, h⟩ := Res.bind_eq_next.mp h
  exact .of_next (((DataStep.refl.then_memRead hr).then_memWrite hw).then_setReg d old) (by decide) h

theorem retires_of_modifyIo {a : BitVec 5} {f : Byte → Byte} (h : modifyIo s a f = .next t) : Retires s t := by
  obtain ⟨⟨v, s1⟩, hr, h⟩ := Res.bind_eq_next.mp h
  obtain ⟨s2, hw, h⟩ := Res.bind_eq_next.mp h
  exact .of_next ((DataStep.refl.then_memRead hr).then_memWrite hw) (by decide) h

/-- `LDS`, `IN`, `POP`: a byte is read into a register and `pc` goes to `target` of the state after the read. -/
theorem retires_of_readInto {u : State} {a : Word} {n : Nat} {d : Reg} {target : State → Word} (data : DataStep s u)
    (hn : 1 ≤ n ∧ n ≤ 4)
    (h : ((memRead u a).bind fun (v, s1) => .next ((s1.setReg d v).retire (target s1) n)) = .next t) : Retires s t := by
  obtain ⟨⟨v, s1⟩, hr, h⟩ := Res.bind_eq_next.mp h
  exact .of_next ((data.then_memRead hr).then_setReg d v) hn h

/-- R330: what a skip does after the data accesses that precede its condition. -/
theorem retires_of_skip {u : State} {cond : Bool} (data : DataStep s u) (h : skip u cond = .next t) : Retires s t := by
  unfold skip at h
  split at h
  · obtain ⟨wn, -, h⟩ := Res.bind_eq_next.mp h
    have := wordSize_le_two wn
    exact .of_next data (by omega) h
  · exact .of_next data (by decide) h

theorem retires_of_skipOnIo {a : Word} {cond : Byte → Bool}
    (h : ((memRead s a).bind fun (v, s1) => skip s1 (cond v)) = .next t) : Retires s t := by
  obtain ⟨⟨v, s1⟩, hr, h⟩ := Res.bind_eq_next.mp h
  exact retires_of_skip (DataStep.refl.then_memRead hr) h

theorem retires_of_branch {cond : Bool} {k : BitVec 7} (h : branch s cond k = .next t) : Retires s t := by
  unfold branch at h
  split at h
  · exact retires_of_retire (by decide) h
  · exact retires_of_retire (by decide) h

/-- `STS`, `OUT`: a byte is written and `pc` goes to `target` of the state after the write. -/
theorem retires_of_write {a : Word} {v : Byte} {n : Nat} {target : State → Word} (hn : 1 ≤ n ∧ n ≤ 4)
    (h : ((memWrite s a v).bind fun s1 => .next (s1.retire (target s1) n)) = .next t) : Retires s t := by
  obtain ⟨s1, hw, h⟩ := Res.bind_eq_next.mp h
  exact .of_next (DataStep.refl.then_memWrite hw) hn h

theorem retires_of_execPush {r : Reg} (h : execPush r s = .next t) : Retires s t := by
  obtain ⟨s1, hw, h⟩ := Res.bind_eq_next.mp h
  exact .of_next ((DataStep.refl.then_memWrite hw).then_setSp _) (by decide) h

/-- The calls: the return address is pushed and `pc` goes to `target` of the state after the push. -/
theorem retires_of_call {ret : Word} {n : Nat} {target : State → Word} (hn : 1 ≤ n ∧ n ≤ 4)
    (h : ((pushRet s ret).bind fun s1 => .next (s1.retire (target s1) n)) = .next t) : Retires s t := by
  obtain ⟨s1, hp, h⟩ := Res.bind_eq_next.mp h
  exact .of_next (.of_pushRet hp) hn h

theorem retires_of_execRet (h : execRet s = .next t) : Retires s t := by
  obtain ⟨⟨ret, s1⟩, hp, h⟩ := Res.bind_eq_next.mp h
  exact .of_next (.of_popRet hp) (by decide) h

theorem retires_of_returnFromInterrupt (h : returnFromInterrupt s = .next t) : Retires s t := by
  obtain ⟨⟨ret, s1⟩, hp, h⟩ := Res.bind_eq_next.mp h
  exact .of_next (((DataStep.of_popRet hp).then_setFlags _).then_emit _) (by decide) h

end shapes

/-! ### Every instruction -/

/-- R432: `SLEEP` sets the asleep flag before it retires. -/
theorem exec_sleep (s : State) : exec .sleep s = .next ({ s with asleep := true }.retireNext 1) := rfl

/-- R154: every instruction but `SLEEP` completes as `Retires` says, by the shape of its meaning. -/
theorem exec_retires {i : Instr} {s t : State} (hi : i ≠ .sleep) (h : exec i s = .next t) : Retires s t := by
  cases i with dsimp only [exec] at h
  | sleep => exact absurd rfl hi
  | add | adc | sub | subi | sbc | sbci | and | andi | or | ori | eor | com | neg | inc | dec | tst | clr | sbr | cbr
  | lsl | rol | lsr | ror | asr => exact retires_of_writeRegFlags h
  | cp | cpc | cpi | bset | bclr | sec | sez | sen | sev | ses | seh | set_ | sei | clc | clz | cln | clv | cls | clh
  | clt | cli | bst => exact retires_of_writeFlags h
  | swap | bld | mov | ldi | ser => exact retires_of_writeReg h
  | adiw | sbiw | mul | muls | mulsu | fmul | fmuls | fmulsu => exact retires_of_writePairFlags h
  | movw d r => exact .of_next (DataStep.refl.then_setPair d (s.pair r)) (by decide) h
  | sbi | cbi => exact retires_of_modifyIo h
  | rjmp | ijmp | jmp => exact retires_of_retire (by decide) h
  | eijmp | eicall | nop | des | spm | spmZInc => exact retires_of_noOperation h
  | rcall | icall | call => exact retires_of_call (by decide) h
  | ret => exact retires_of_execRet h
  | reti => exact retires_of_returnFromInterrupt h
  | cpse | sbrc | sbrs => exact retires_of_skip .refl h
  | sbic a b => exact retires_of_skipOnIo (cond := fun v => !v.getLsbD b.val) h
  | sbis a b => exact retires_of_skipOnIo (cond := fun v => v.getLsbD b.val) h
  | brbs | brbc | brcs | brlo | brcc | brsh | breq | brne | brmi | brpl | brvs | brvc | brlt | brge | brhs | brhc | brts
  | brtc | brie | brid => exact retires_of_branch h
  | lds => exact retires_of_readInto (target := fun _ => s.pc + 2) .refl (by decide) h
  | in_ => exact retires_of_readInto (target := fun s1 => s1.pc + 1) .refl (by decide) h
  | pop => exact retires_of_readInto (target := fun s1 => s1.pc + 1) (DataStep.refl.then_setSp _) (by decide) h
  | sts | out => exact retires_of_write (by decide) h
  | push => exact retires_of_execPush h
  | ldX | ldXInc | ldXDec | ldYInc | ldYDec | lddY | ldZInc | ldZDec | lddZ => exact retires_of_loadIndirect h
  | ldY => exact retires_of_loadIndirect (p := .y) (f := .disp 0) h
  | ldZ => exact retires_of_loadIndirect (p := .z) (f := .disp 0) h
  | stX | stXInc | stXDec | stYInc | stYDec | stdY | stZInc | stZDec | stdZ => exact retires_of_storeIndirect h
  | stY => exact retires_of_storeIndirect (p := .y) (f := .disp 0) h
  | stZ => exact retires_of_storeIndirect (p := .z) (f := .disp 0) h
  | lpm | lpmZ | lpmZInc | elpm | elpmZ | elpmZInc => exact retires_of_loadProgram h
  | xch | las | lac | lat => exact retires_of_exchangeZ h
  | wdr | break_ => exact .of_next (DataStep.refl.then_emit _) (by decide) h

/-- R150: an awake step up to the tick phase: one instruction or the no-op of R440, begun asleep where it is `SLEEP`. -/
theorem runInstruction_retires {s t : State} (h : runInstruction s = .next t) :
    ∃ b : Bool, Retires { s with asleep := b } t := by
  obtain ⟨⟨w, w2⟩, -, h⟩ := Res.bind_eq_next.mp h
  dsimp only at h
  split at h
  · next i _ =>
    by_cases hi : i = .sleep
    · subst hi
      exact ⟨true, retires_of_retire (by decide) (exec_sleep s ▸ h)⟩
    · exact ⟨s.asleep, exec_retires hi h⟩
  · exact ⟨s.asleep, retires_of_noOperation h⟩

end Sys2Proof.Machine
end

section
/-! PROOFS. The invariant of the machine: the interrupt controller (spec/60 R502 to R505), every phase of a step (spec/40
R150), and construction (spec/70 R560). -/

namespace Sys2Proof.Machine

/-! ### The I/O bytes of the bindings -/

/-- R60, R157: a binding's own bytes lie in the I/O space. -/
theorem owns_lt {b : Binding} {a : Nat} (h : b.owns a = true) : a < 256 := by
  simp only [Binding.owns, Config.ioSpace, Bool.and_eq_true, decide_eq_true_eq] at h
  obtain ⟨⟨-, hle⟩, -⟩ := h
  exact Nat.lt_succ_of_le hle

theorem owned_lt {c : Config} {a : Nat} (h : c.owned a = true) : a < 256 := by
  obtain ⟨b, -, hb⟩ := List.any_eq_true.mp h
  exact owns_lt hb

/-! ### The pending mask and `Recompute` -/

theorem getLsbD_setPending (mask : BitVec 32) {v : Nat} (hv : v < 32) (q : Nat) :
    (setPending mask v).getLsbD q = (mask.getLsbD q || decide (q = v)) := by
  by_cases h : q = v
  · simp [setPending, h, hv]
  · simp [setPending, h]
    omega

theorem recompute_zero (how : Recompute) : recompute how 0 = 255 := by cases how <;> rfl

/-- A scan through all vectors, in whatever order, answers a pending one. -/
theorem find_pending {scan : List Nat} (hs : ∀ v, v ∈ scan ↔ v < 32) {mask : BitVec 32} (h : mask ≠ 0) :
    ∃ v, scan.find? (fun v => mask.getLsbD v) = some v ∧ v < 32 ∧ mask.getLsbD v = true := by
  cases e : scan.find? fun v => mask.getLsbD v with
  | some v => exact ⟨v, rfl, (hs v).mp (List.mem_of_find?_eq_some e), List.find?_some e⟩
  | none =>
    refine absurd (BitVec.eq_of_getLsbD_eq fun v hv => ?_) h
    simpa using List.find?_eq_none.mp e v ((hs v).mpr hv)

theorem toNat_vector {v : Nat} (hv : v < 32) : (BitVec.ofNat 8 v).toNat = v := by
  rw [BitVec.toNat_ofNat]
  omega

/-- R505: `Recompute` of a mask that is not empty answers a pending vector, under both settings. -/
theorem recompute_pending (how : Recompute) {mask : BitVec 32} (h : mask ≠ 0) :
    (recompute how mask).toNat < 32 ∧ mask.getLsbD (recompute how mask).toNat = true := by
  cases how with
  | lowestFirst =>
    obtain ⟨v, e, hv, hb⟩ := find_pending (scan := vectors) (fun _ => List.mem_range) h
    simp [recompute, e, toNat_vector hv, hv, hb]
  | highestFirst =>
    obtain ⟨v, e, hv, hb⟩ := find_pending (scan := vectors.reverse) (fun _ => List.mem_reverse.trans List.mem_range) h
    simp only [recompute, e, toNat_vector hv, hv, hb, and_self]

/-- R505 under `LowestFirst`: the vector answered is pending and no lower one is. -/
theorem recompute_lowest_iff {mask : BitVec 32} {p : Byte} (hp : p.toNat < 32) :
    recompute .lowestFirst mask = p ↔ mask.getLsbD p.toNat = true ∧ ∀ q < p.toNat, mask.getLsbD q = false := by
  constructor
  · rintro rfl
    have h0 : mask ≠ 0 := by rintro rfl; exact absurd hp (by decide)
    obtain ⟨v, e, hv, hb⟩ := find_pending (scan := vectors) (fun _ => List.mem_range) h0
    have hr : (recompute .lowestFirst mask).toNat = v := by simp only [recompute, e, toNat_vector hv]
    rw [hr]
    exact ⟨hb, fun q hq => by simpa using (List.find?_range_eq_some.mp e).2.2 q hq⟩
  · intro ⟨hb, hlow⟩
    have e : vectors.find? (fun v => mask.getLsbD v) = some p.toNat :=
      List.find?_range_eq_some.mpr ⟨hb, List.mem_range.mpr hp, fun q hq => by simp [hlow q hq]⟩
    simp only [recompute, e, BitVec.ofNat_toNat, BitVec.setWidth_eq]

/-! ### The controller -/

namespace State

variable {s : State}

/-- The Pending state of R502, from the bit of the priority register. -/
theorem controllerLegal_of_pending (hp : s.intPrio.toNat < 32) (hb : s.intPending.getLsbD s.intPrio.toNat = true) :
    s.ControllerLegal := by
  refine .inr ⟨fun h0 => ?_, hp, hb⟩
  simp [h0] at hb

/-- R37 under `LowestFirst`: no vector below the priority register is pending, in Idle or in Pending. -/
theorem not_pending_below_prio (hc : s.ControllerLegal) (hl : s.PrioIsLowest) (hlow : s.cfg.intRecompute = .lowestFirst) :
    ∀ q < s.intPrio.toNat, s.intPending.getLsbD q = false := by
  rcases hc with ⟨h0, -⟩ | ⟨-, hp, -⟩
  · simp [h0]
  · exact ((recompute_lowest_iff hp).mp (hl hlow).symm).2

end State

/-- R503: the priority register takes the smaller of itself and the vector raised. -/
theorem irqRaise_intPrio (s : State) (v : BitVec 5) : (irqRaise s v).intPrio.toNat = min v.toNat s.intPrio.toNat := by
  simp only [irqRaise]
  split
  · rw [BitVec.toNat_setWidth_of_le (by decide)]
    omega
  · omega

/-- R503: the bit of the priority register is set after a raise. -/
theorem irqRaise_prio_pending {s : State} (hc : s.ControllerLegal) (v : BitVec 5) :
    (irqRaise s v).intPending.getLsbD (min v.toNat s.intPrio.toNat) = true := by
  refine (getLsbD_setPending s.intPending v.isLt _).trans ?_
  rcases Nat.le_total v.toNat s.intPrio.toNat with hle | hle
  · simp [hle]
  · rcases hc with ⟨-, h255⟩ | ⟨-, -, hb⟩
    · have := v.isLt
      simp [h255] at hle
      omega
    · simp [hle, hb]

/-- R503: `irq_raise` keeps the invariant. -/
theorem irqRaise_inv {s : State} (h : s.Inv) (v : BitVec 5) : (irqRaise s v).Inv := by
  obtain ⟨hcfg, hcan, hbounds, hc, hl, hticks⟩ := h
  have hprio := irqRaise_intPrio s v
  have hlt : (irqRaise s v).intPrio.toNat < 32 := by have := v.isLt; omega
  have hbit : (irqRaise s v).intPending.getLsbD (irqRaise s v).intPrio.toNat = true := by
    rw [hprio]
    exact irqRaise_prio_pending hc v
  refine ⟨hcfg, hcan, hbounds, State.controllerLegal_of_pending hlt hbit, fun hlow => ?_, hticks⟩
  refine ((recompute_lowest_iff hlt).mpr ⟨hbit, fun q hq => ?_⟩).symm
  have hold := State.not_pending_below_prio hc hl hlow q (by omega)
  refine (getLsbD_setPending s.intPending v.isLt q).trans ?_
  simp [hold]
  omega

/-- R504: `irq_clear` keeps the invariant. -/
theorem clearVector_inv {s : State} (h : s.Inv) (v : Byte) : (clearVector s v).Inv := by
  obtain ⟨hcfg, hcan, hbounds, -, -, hticks⟩ := h
  refine ⟨hcfg, hcan, hbounds, ?_, fun hlow => congrArg (recompute · _) hlow, hticks⟩
  by_cases h0 : clearPending s.intPending v.toNat = 0
  · exact .inl ⟨h0, (congrArg (recompute _) h0).trans (recompute_zero _)⟩
  · exact .inr ⟨h0, recompute_pending _ h0⟩

/-! ### The phases of a step -/

/-- A data access keeps the invariant. -/
theorem DataStep.inv {s t : State} (d : DataStep s t) (h : s.Inv) : t.Inv := by
  obtain ⟨hcfg, ⟨hdm, hrom⟩, ⟨hdmb, hromb⟩, hc, hl, hticks⟩ := h
  have hwf := d.wf hdm
  have hbelow := d.below hcfg hdmb
  rw [d.same]
  exact ⟨hcfg, ⟨hwf, hrom⟩, ⟨hbelow, hromb⟩, hc, hl, hticks⟩

/-- R157: one environment event keeps the invariant; an owned byte lies in the I/O space. -/
theorem applyEvent_inv {s : State} (h : s.Inv) (e : EnvEvent) : (applyEvent s e).Inv := by
  cases e with
  | irqRaise v => exact irqRaise_inv h v
  | irqClear v => exact clearVector_inv h _
  | ioByte a v =>
    simp only [applyEvent]
    split
    · next ho =>
      exact (DataStep.refl.then_setByte (Nat.lt_succ_of_lt (owned_lt ho)) v).inv h
    · exact h

theorem foldl_applyEvent_inv {s : State} (h : s.Inv) (es : List EnvEvent) : (es.foldl applyEvent s).Inv := by
  induction es generalizing s with
  | nil => exact h
  | cons e es ih => exact ih (applyEvent_inv h e)

/-- R157, R582: a state that meets the invariant but for the ticks of the step's own cycles meets it after the tick phase. -/
theorem tickPhase_inv {s u : State} (h : s.Inv) (hu : { u with ticks := u.cycles }.Inv) (hle : s.cycles ≤ u.cycles)
    (ht : u.ticks = s.ticks) : (tickPhase (u.cycles - s.cycles) u).Inv := by
  obtain ⟨-, -, -, -, -, hticks⟩ := h
  obtain ⟨hcfg, hcan, hbounds, hc, hl, -⟩ := hu
  have hcounted : u.ticks + (u.cycles - s.cycles) = u.cycles := by omega
  exact foldl_applyEvent_inv
    (s := { u with ticks := u.ticks + (u.cycles - s.cycles), schedule := u.schedule.tail })
    ⟨hcfg, hcan, hbounds, hc, hl, hcounted⟩ _

/-- R506: taking an interrupt keeps the invariant. -/
theorem takeInterrupt_inv {s t : State} (h : s.Inv) (ht : takeInterrupt s = .next t) : t.Inv := by
  obtain ⟨s1, hp, ht⟩ := Res.bind_eq_next.mp ht
  cases ht
  have h2 : { s1 with pc := BitVec.ofNat 16 (2 * s.intPrio.toNat) }.Inv := (DataStep.of_pushRet hp).inv h
  exact clearVector_inv ((((DataStep.refl.then_setFlags _).then_emit _).then_emit _).inv h2) _

theorem service_inv {s t : State} (h : s.Inv) (ht : service s = .next t) : t.Inv := by
  rcases service_cases s with ⟨-, -, e⟩ | ⟨-, e⟩ <;> rw [e] at ht
  · exact takeInterrupt_inv h ht
  · cases ht
    exact h

/-- R150: the invariant of the state a retired instruction leaves, its ticks counted. -/
theorem Retires.inv {s t : State} {b : Bool} (r : Retires { s with asleep := b } t) (h : s.Inv) :
    { t with ticks := t.cycles }.Inv ∧ s.cycles ≤ t.cycles ∧ t.ticks = s.ticks := by
  obtain ⟨d, -, -⟩ := r
  obtain ⟨hcfg, hcan, hbounds, hc, hl, -⟩ := d.inv (s := { s with asleep := b }) h
  exact ⟨⟨hcfg, hcan, hbounds, hc, hl, rfl⟩, d.cycles ▸ Nat.le_add_right _ _, d.ticks⟩

/-- Settles O56: an awake step runs one instruction (`runInstruction_retires`), an asleep one counts a cycle; either way the
tick phase counts the cycles as ticks and service keeps what it finds. -/
theorem stepKeepsInvariant : Obligations.StepKeepsInvariant := by
  intro s t h hstep
  obtain ⟨u, hu, hfinish⟩ := Res.bind_eq_next.mp hstep
  refine service_inv ?_ hfinish
  split at hu
  · cases hu
    have ⟨hcfg, hcan, hbounds, hc, hl, _⟩ := h
    exact tickPhase_inv h ⟨hcfg, hcan, hbounds, hc, hl, rfl⟩ (Nat.le_succ _) rfl
  · obtain ⟨b, r⟩ := runInstruction_retires hu
    obtain ⟨hinv, hle, hticks⟩ := r.inv h
    exact tickPhase_inv h hinv hle hticks

/-! ### Construction -/

theorem initWrites_lt {c : Config} {x : Nat × Byte} (h : x ∈ c.initWrites) : x.1 < 257 := by
  obtain ⟨b, -, hx⟩ := List.mem_flatMap.mp h
  exact Nat.lt_succ_of_lt (owns_lt (List.mem_filter.mp hx).2)

/-- Settles O57: the loader and the init callbacks write below the bounds, and the controller begins Idle. -/
theorem resetMeetsInvariant : Obligations.ResetMeetsInvariant := by
  intro c image hc
  have hlow {a : Nat} (ha : a < 257) : a < c.dataSize := by
    obtain ⟨-, -, hsize, -⟩ := hc
    omega
  refine ⟨hc, ⟨?_, ?_⟩, ⟨?_, ?_⟩, .inl ⟨rfl, rfl⟩, fun _ => (recompute_zero _).symm, rfl⟩
  · exact Memory.setAll_wf (Memory.setAll_wf (Memory.set_wf (Memory.set_wf rfl)))
  · exact Memory.setAll_wf rfl
  · refine Memory.setAll_below (fun x hx => hlow (initWrites_lt hx)) ?_
    refine Memory.setAll_below (fun x hx => of_decide_eq_true (List.mem_filter.mp hx).2) ?_
    exact Memory.set_below (hlow (by decide)) (Memory.set_below (hlow (by decide)) rfl)
  · exact Memory.setAll_below (fun x hx => of_decide_eq_true (List.mem_filter.mp hx).2) rfl

end Sys2Proof.Machine
end

section
/-! PROOFS. What is fixed for a run and what construction leaves (spec/10 R40, R42; spec/20 R84; spec/70 R560, R563). -/

namespace Sys2Proof.Machine

/-! ### Program memory and the configuration -/

theorem runInstruction_rom_cfg {s t : State} (h : runInstruction s = .next t) : t.rom = s.rom ∧ t.cfg = s.cfg := by
  obtain ⟨b, data, -, -⟩ := runInstruction_retires h
  exact ⟨data.rom, data.cfg⟩

theorem tickPhase_rom_cfg (n : Nat) (s : State) : (tickPhase n s).rom = s.rom ∧ (tickPhase n s).cfg = s.cfg := by
  rw [tickPhase, foldl_applyEvent_same]
  exact ⟨rfl, rfl⟩

theorem takeInterrupt_rom_cfg {s t : State} (h : takeInterrupt s = .next t) : t.rom = s.rom ∧ t.cfg = s.cfg := by
  obtain ⟨s1, hp, h⟩ := Res.bind_eq_next.mp h
  cases h
  exact ⟨(DataStep.of_pushRet hp).rom, (DataStep.of_pushRet hp).cfg⟩

theorem service_rom_cfg {s t : State} (h : service s = .next t) : t.rom = s.rom ∧ t.cfg = s.cfg := by
  rcases service_cases s with ⟨-, -, e⟩ | ⟨-, e⟩ <;> rw [e] at h
  · exact takeInterrupt_rom_cfg h
  · cases h
    exact ⟨rfl, rfl⟩

/-- Settles O58: none of the three parts of a step, the instruction or the asleep cycle, the tick phase and service, writes
program memory or the configuration. -/
theorem programAndConfigurationAreFixed : Obligations.ProgramAndConfigurationAreFixed := by
  intro s t hstep
  obtain ⟨u, hu, hfinish⟩ := Res.bind_eq_next.mp hstep
  obtain ⟨hrom, hcfg⟩ := service_rom_cfg hfinish
  obtain ⟨hrom', hcfg'⟩ := tickPhase_rom_cfg (u.cycles - s.cycles) u
  have ⟨hrom'', hcfg''⟩ : u.rom = s.rom ∧ u.cfg = s.cfg := by
    split at hu
    · cases hu
      exact ⟨rfl, rfl⟩
    · exact runInstruction_rom_cfg hu
  exact ⟨(hrom.trans hrom').trans hrom'', (hcfg.trans hcfg').trans hcfg''⟩

/-! ### Construction -/

@[simp] theorem lastWrite_nil {w : Nat} (a : Nat) : lastWrite ([] : List (Nat × BitVec w)) a = none := rfl

theorem lastWrite_cons {w : Nat} (c : Nat × BitVec w) (l : List (Nat × BitVec w)) (a : Nat) :
    lastWrite (c :: l) a = (lastWrite l a).or (if c.1 = a then some c.2 else none) := by
  unfold lastWrite
  rw [List.reverse_cons, List.find?_append]
  cases l.reverse.find? fun x => x.1 == a with
  | some x => rfl
  | none => by_cases h : c.1 = a <;> simp [h]

/-- Writes elsewhere do not matter for the last write at `a`. -/
theorem lastWrite_filter {w n a : Nat} (h : a < n) (l : List (Nat × BitVec w)) :
    lastWrite (l.filter fun x => x.1 < n) a = lastWrite l a := by
  induction l with
  | nil => rfl
  | cons c l ih =>
    by_cases hc : c.1 < n
    · simp [hc, lastWrite_cons, ih]
    · simp [hc, lastWrite_cons, ih, show c.1 ≠ a by omega]

/-- After a list of writes an address reads as the last of them that names it, else as before. -/
theorem Memory.get_setAll {w : Nat} {m : Memory w} (hm : m.wf = true) (l : List (Nat × BitVec w)) (a : Nat) :
    (m.setAll l).get a = (lastWrite l a).getD (m.get a) := by
  induction l generalizing m with
  | nil => rfl
  | cons c l ih =>
    rw [setAll_cons, ih (set_wf hm), get_set hm, lastWrite_cons]
    cases lastWrite l a with
    | some v => rfl
    | none =>
      by_cases h : a = c.1
      · simp [h]
      · simp [h, Ne.symm h]

/-- R560: the data space before the loader: `SP_INIT` in `SPL` and `SPH`, zeros elsewhere. -/
theorem get_zeroed (sp : Word) (a : Nat) :
    Memory.get (Memory.set (Memory.set [] splAddr sp.lo) sphAddr sp.hi) a =
      if a = splAddr then sp.lo else if a = sphAddr then sp.hi else 0 := by
  rw [Memory.get_set (Memory.set_wf rfl), Memory.get_set rfl]
  by_cases h : a = splAddr <;> simp [h]

/-- R560, R563, R71: each byte after construction, in the order init callbacks, loader, `SP_INIT`, zero. -/
theorem byte_construct (c : Config) (image : Image) (a : Nat) :
    (State.construct c image).byte a =
      ((lastWrite c.initWrites a).or (lastWrite (image.data.filter fun x => x.1 < c.dataSize) a)).getD
        (if a = splAddr then c.spInit.lo else if a = sphAddr then c.spInit.hi else 0) := by
  have hz : Memory.wf (Memory.set (Memory.set [] splAddr c.spInit.lo) sphAddr c.spInit.hi) = true :=
    Memory.set_wf (Memory.set_wf rfl)
  refine (Memory.get_setAll (Memory.setAll_wf hz) _ a).trans ?_
  rw [Memory.get_setAll hz, get_zeroed]
  cases lastWrite c.initWrites a with
  | some v => rfl
  | none => rfl

/-- R42: with no binding and nothing loaded, a byte is `SP_INIT`'s or zero. -/
theorem byte_construct_bare {c : Config} {image : Image} (hb : c.bindings = []) (hd : image.data = []) (a : Nat) :
    (State.construct c image).byte a = if a = splAddr then c.spInit.lo else if a = sphAddr then c.spInit.hi else 0 := by
  simp [byte_construct, Config.initWrites, hb, hd]

/-- Settles O60: the fields are set as R560 lists them, and both memories answer the last write of the init callbacks and the
loader. -/
theorem resetValues : Obligations.ResetValues := by
  intro c image
  refine ⟨rfl, rfl, rfl, rfl, rfl, rfl, rfl, rfl, rfl, fun a ha => ?_, fun a ha => ?_, fun hb hd => ?_⟩
  · rw [byte_construct, lastWrite_filter ha]
  · exact (Memory.get_setAll rfl _ a).trans (by rw [lastWrite_filter ha, Memory.get_nil])
  · have hbyte := byte_construct_bare hb hd
    refine ⟨?_, fun d => ?_, hbyte sregAddr, fun a hl hh => ?_⟩
    · rw [State.sp_eq, hbyte, hbyte]
      exact State.hi_append_lo c.spInit
    · have := d.isLt
      rw [State.reg_eq, hbyte, if_neg (by unfold splAddr; omega), if_neg (by unfold sphAddr; omega)]
    · rw [hbyte, if_neg hl, if_neg hh]

end Sys2Proof.Machine
end

section
/-! PROOFS. Which flags an instruction may change, said once for all 142 of them (spec/10 R28). -/

namespace Sys2Proof.Machine

/-! ### The flag computations -/

namespace Flags

/-- `g` differs from `f` at most in the flags `ks`. -/
def ChangesOnly (ks : List (Fin 8)) (f g : Flags) : Prop := ∀ k ∉ ks, g.get k = f.get k

theorem changesOnly_iff {ks : List (Fin 8)} {f g : Flags} :
    ChangesOnly ks f g ↔
      (0 ∉ ks → g.c = f.c) ∧ (1 ∉ ks → g.z = f.z) ∧ (2 ∉ ks → g.n = f.n) ∧ (3 ∉ ks → g.v = f.v) ∧
      (4 ∉ ks → g.s = f.s) ∧ (5 ∉ ks → g.h = f.h) ∧ (6 ∉ ks → g.t = f.t) ∧ (7 ∉ ks → g.i = f.i) := by
  simp only [ChangesOnly, Fin.forall_fin_succ]
  simp [get]

theorem changesOnly_addFlags (f : Flags) (a b r : Byte) : ChangesOnly [0, 1, 2, 3, 4, 5] f (addFlags f a b r) := by
  simp [changesOnly_iff, addFlags]

theorem changesOnly_subFlags (f : Flags) (a b r : Byte) (sticky : Bool) :
    ChangesOnly [0, 1, 2, 3, 4, 5] f (subFlags f a b r sticky) := by
  simp [changesOnly_iff, subFlags]

theorem changesOnly_logicFlags (f : Flags) (r : Byte) : ChangesOnly [1, 2, 3, 4] f (logicFlags f r) := by
  simp [changesOnly_iff, logicFlags]

theorem changesOnly_adiwFlags (f : Flags) (a r : Word) : ChangesOnly [0, 1, 2, 3, 4] f (adiwFlags f a r) := by
  simp [changesOnly_iff, adiwFlags]

theorem changesOnly_sbiwFlags (f : Flags) (a r : Word) : ChangesOnly [0, 1, 2, 3, 4] f (sbiwFlags f a r) := by
  simp [changesOnly_iff, sbiwFlags]

theorem changesOnly_comFlags (f : Flags) (r : Byte) : ChangesOnly [0, 1, 2, 3, 4] f (comFlags f r) := by
  simp [changesOnly_iff, comFlags, logicFlags]

theorem changesOnly_negFlags (f : Flags) (a r : Byte) : ChangesOnly [0, 1, 2, 3, 4, 5] f (negFlags f a r) := by
  simp [changesOnly_iff, negFlags]

theorem changesOnly_stepFlags (f : Flags) (r overflowAt : Byte) :
    ChangesOnly [1, 2, 3, 4] f (stepFlags f r overflowAt) := by
  simp [changesOnly_iff, stepFlags]

theorem changesOnly_shiftRightFlags (f : Flags) (a r : Byte) :
    ChangesOnly [0, 1, 2, 3, 4] f (shiftRightFlags f a r) := by
  simp [changesOnly_iff, shiftRightFlags]

theorem changesOnly_mulFlags (f : Flags) (product result : Word) :
    ChangesOnly [0, 1] f (mulFlags f product result) := by
  simp [changesOnly_iff, mulFlags]

theorem changesOnly_put (f : Flags) (k : Fin 8) (b : Bool) : ChangesOnly [k] f (f.put k b) := by
  fin_cases k <;> simp [changesOnly_iff, put]

end Flags

/-! ### What leaves the flags -/

/-- From `s` to `t` no flag but `ks` changed; a later write meets the same configuration and a canonical data space. -/
structure FlagStep (ks : List (Fin 8)) (s t : State) : Prop where
  cfg : t.cfg = s.cfg
  wf : t.dm.wf = true
  flags : Flags.ChangesOnly ks s.flags t.flags

namespace FlagStep

variable {ks : List (Fin 8)} {s t u : State}

theorem refl (hw : s.dm.wf = true) : FlagStep ks s s := ⟨rfl, hw, fun _ _ => rfl⟩

/-- Flags are read in `SREG`'s byte alone. -/
theorem then_keepingSreg (h : FlagStep ks s u) (hc : t.cfg = u.cfg) (hw : t.dm.wf = true)
    (hb : t.byte sregAddr = u.byte sregAddr) : FlagStep ks s t := by
  refine ⟨hc.trans h.cfg, hw, ?_⟩
  have hf : t.flags = u.flags := congrArg Flags.ofByte hb
  exact hf ▸ h.flags

theorem then_setByte (h : FlagStep ks s u) {a : Nat} (ha : a ≠ sregAddr) (v : Byte) : FlagStep ks s (u.setByte a v) :=
  h.then_keepingSreg rfl (State.wf_setByte h.wf a v) (by rw [State.byte_setByte h.wf, if_neg ha.symm])

theorem then_setReg (h : FlagStep ks s u) (d : Reg) (v : Byte) : FlagStep ks s (u.setReg d v) :=
  h.then_setByte (by have := d.isLt; unfold sregAddr; omega) v

theorem then_setPair (h : FlagStep ks s u) (d : Reg) (v : Word) : FlagStep ks s (u.setPair d v) :=
  (h.then_setReg d v.lo).then_setByte (by have := d.isLt; unfold sregAddr; omega) v.hi

theorem then_setSp (h : FlagStep ks s u) (v : Word) : FlagStep ks s (u.setSp v) :=
  (h.then_setByte (by decide) v.lo).then_setByte (by decide) v.hi

theorem then_setFlags (h : FlagStep ks s u) {f : Flags} (hf : Flags.ChangesOnly ks u.flags f) :
    FlagStep ks s (u.setFlags f) := by
  refine ⟨h.cfg, State.wf_setFlags h.wf f, fun k hk => ?_⟩
  rw [State.flags_setFlags h.wf, hf k hk, h.flags k hk]

theorem then_emit (h : FlagStep ks s u) (o : Output) : FlagStep ks s (u.emit o) := h.then_keepingSreg rfl h.wf rfl

/-- R64: a data read changes no byte. -/
theorem then_memRead {a : Word} {v : Byte} (h : FlagStep ks s u) (hr : memRead u a = .next (v, t)) :
    FlagStep ks s t := by
  obtain ⟨-, d, hdm⟩ := memRead_next hr
  exact h.then_keepingSreg d.cfg (d.wf h.wf) (congrArg (Memory.get · sregAddr) hdm)

/-- R65, R70: a data write that spares `SREG`. -/
theorem then_memWrite {a : Word} {v : Byte} (h : FlagStep ks s u) (hs : s.cfg.Spares a sregAddr)
    (hr : memWrite u a v = .next t) : FlagStep ks s t := by
  obtain ⟨d, hb⟩ := memWrite_next hr
  exact h.then_keepingSreg d.cfg (d.wf h.wf) (hb h.wf _ (h.cfg ▸ hs))

theorem then_updateBefore (h : FlagStep ks s u) (p : Pointer) (a : Word) (f : Form) :
    FlagStep ks s (updateBefore u p a f) := by
  cases f with
  | preDec => exact h.then_setPair _ _
  | plain | postInc | disp => exact h

theorem then_updateAfter (h : FlagStep ks s u) (p : Pointer) (a : Word) (f : Form) :
    FlagStep ks s (updateAfter u p a f) := by
  cases f with
  | postInc => exact h.then_setPair _ _
  | plain | preDec | disp => exact h

/-- An instruction that answers `u` advanced. -/
theorem of_next {target : Word} {n : Nat} (hu : FlagStep ks s u)
    (h : (.next (u.retire target n) : Res State) = .next t) : FlagStep ks s t := by
  cases h
  exact hu.then_keepingSreg rfl hu.wf rfl

/-! ### The instruction shapes -/

/-- R330: what a skip does after the data accesses that precede its condition. -/
theorem of_skip {cond : Bool} (hu : FlagStep ks s u) (h : skip u cond = .next t) : FlagStep ks s t := by
  unfold skip at h
  split at h
  · obtain ⟨wn, -, h⟩ := Res.bind_eq_next.mp h
    exact .of_next hu h
  · exact .of_next hu h

/-- `LDS`, `IN`, `POP`: a byte is read into a register and `pc` goes to `target` of the state after the read. -/
theorem of_readInto {a : Word} {n : Nat} {d : Reg} {target : State → Word} (hu : FlagStep ks s u)
    (h : ((memRead u a).bind fun (v, s1) => .next ((s1.setReg d v).retire (target s1) n)) = .next t) :
    FlagStep ks s t := by
  obtain ⟨⟨v, s1⟩, hr, h⟩ := Res.bind_eq_next.mp h
  exact .of_next ((hu.then_memRead hr).then_setReg d v) h

section shapes

variable (hw : s.dm.wf = true)
include hw

theorem of_writeRegFlags {d : Reg} {v : Byte} {f : Flags} (hf : Flags.ChangesOnly ks s.flags f)
    (h : writeRegFlags s d v f = .next t) : FlagStep ks s t :=
  .of_next (((refl hw).then_setFlags hf).then_setReg d v) h

theorem of_writeFlags {f : Flags} (hf : Flags.ChangesOnly ks s.flags f) (h : writeFlags s f = .next t) :
    FlagStep ks s t :=
  .of_next ((refl hw).then_setFlags hf) h

theorem of_writePairFlags {d : Reg} {v : Word} {f : Flags} (hf : Flags.ChangesOnly ks s.flags f)
    (h : (.next (((s.setFlags f).setPair d v).retireNext 2) : Res State) = .next t) : FlagStep ks s t :=
  .of_next (((refl hw).then_setFlags hf).then_setPair d v) h

theorem of_writeReg {d : Reg} {v : Byte} (h : writeReg s d v = .next t) : FlagStep ks s t :=
  .of_next ((refl hw).then_setReg d v) h

theorem of_retire {target : Word} {n : Nat} (h : (.next (s.retire target n) : Res State) = .next t) :
    FlagStep ks s t :=
  .of_next (refl hw) h

theorem of_branch {cond : Bool} {k : BitVec 7} (h : branch s cond k = .next t) : FlagStep ks s t := by
  unfold branch at h
  split at h
  · exact of_retire hw h
  · exact of_retire hw h

theorem of_loadIndirect {p : Pointer} {f : Form} {d : Reg} (h : loadIndirect s p f d = .next t) : FlagStep ks s t := by
  unfold loadIndirect at h
  split at h
  · cases h
  · obtain ⟨⟨v, s1⟩, hr, h⟩ := Res.bind_eq_next.mp h
    exact .of_next (((((refl hw).then_updateBefore p _ f).then_memRead hr).then_updateAfter p _ f).then_setReg d v) h

theorem of_storeIndirect {p : Pointer} {f : Form} {r : Reg} (hs : s.cfg.Spares (effectiveAddress s p f) sregAddr)
    (h : storeIndirect s p f r = .next t) : FlagStep ks s t := by
  unfold storeIndirect at h
  split at h
  · cases h
  · obtain ⟨s1, hr, h⟩ := Res.bind_eq_next.mp h
    exact .of_next ((((refl hw).then_updateBefore p _ f).then_memWrite hs hr).then_updateAfter p _ f) h

theorem of_loadProgram {f : Form} {d : Reg} (h : loadProgram s f d = .next t) : FlagStep ks s t := by
  unfold loadProgram at h
  split at h
  · cases h
  · obtain ⟨v, -, h⟩ := Res.bind_eq_next.mp h
    exact .of_next (((refl hw).then_updateAfter .z _ f).then_setReg d v) h

theorem of_exchangeZ {d : Reg} {f : Byte → Byte → Byte} (hs : s.cfg.Spares (s.pair Pointer.z.low) sregAddr)
    (h : exchangeZ s d f = .next t) : FlagStep ks s t := by
  obtain ⟨⟨old, s1⟩, hr, h⟩ := Res.bind_eq_next.mp h
  obtain ⟨s2, hr2, h⟩ := Res.bind_eq_next.mp h
  exact .of_next ((((refl hw).then_memRead hr).then_memWrite hs hr2).then_setReg d old) h

theorem of_modifyIo {a : BitVec 5} {f : Byte → Byte} (hs : s.cfg.Spares (ioAddr5 a) sregAddr)
    (h : modifyIo s a f = .next t) : FlagStep ks s t := by
  obtain ⟨⟨v, s1⟩, hr, h⟩ := Res.bind_eq_next.mp h
  obtain ⟨s2, hr2, h⟩ := Res.bind_eq_next.mp h
  exact .of_next (((refl hw).then_memRead hr).then_memWrite hs hr2) h

/-- `STS`, `OUT`. -/
theorem of_write {a : Word} {v : Byte} {n : Nat} {target : State → Word} (hs : s.cfg.Spares a sregAddr)
    (h : ((memWrite s a v).bind fun s1 => .next (s1.retire (target s1) n)) = .next t) : FlagStep ks s t := by
  obtain ⟨s1, hr, h⟩ := Res.bind_eq_next.mp h
  exact .of_next ((refl hw).then_memWrite hs hr) h

theorem of_execPush {r : Reg} (hs : s.cfg.Spares s.sp sregAddr) (h : execPush r s = .next t) : FlagStep ks s t := by
  obtain ⟨s1, hr, h⟩ := Res.bind_eq_next.mp h
  exact .of_next (((refl hw).then_memWrite hs hr).then_setSp _) h

theorem of_pushRet {ret : Word} (hs : s.cfg.Spares s.sp sregAddr) (hs' : s.cfg.Spares (s.sp - 1) sregAddr)
    (h : pushRet s ret = .next t) : FlagStep ks s t := by
  obtain ⟨s1, h1, h⟩ := Res.bind_eq_next.mp h
  obtain ⟨s2, h2, h⟩ := Res.bind_eq_next.mp h
  cases h
  exact (((refl hw).then_memWrite hs h1).then_memWrite hs' h2).then_setSp _

/-- `RCALL`, `ICALL`, `CALL`. -/
theorem of_call {ret : Word} {n : Nat} {target : State → Word}
    (hs : ∀ a ∈ [s.sp, s.sp - 1], s.cfg.Spares a sregAddr)
    (h : ((pushRet s ret).bind fun s1 => .next (s1.retire (target s1) n)) = .next t) : FlagStep ks s t := by
  obtain ⟨s1, hp, h⟩ := Res.bind_eq_next.mp h
  exact .of_next (of_pushRet hw (hs _ (by simp)) (hs _ (by simp)) hp) h

theorem of_popRet {ret : Word} (h : popRet s = .next (ret, t)) : FlagStep ks s t := by
  obtain ⟨⟨hi, s1⟩, h1, h⟩ := Res.bind_eq_next.mp h
  obtain ⟨⟨lo, s2⟩, h2, h⟩ := Res.bind_eq_next.mp h
  cases h
  exact (((refl hw).then_memRead h1).then_memRead h2).then_setSp _

theorem of_execRet (h : execRet s = .next t) : FlagStep ks s t := by
  obtain ⟨⟨ret, s1⟩, hp, h⟩ := Res.bind_eq_next.mp h
  exact .of_next (of_popRet hw hp) h

/-- R312: I is the one flag a return from an interrupt writes. -/
theorem of_returnFromInterrupt (h : returnFromInterrupt s = .next t) : FlagStep [7] s t := by
  obtain ⟨⟨ret, s1⟩, hp, h⟩ := Res.bind_eq_next.mp h
  exact .of_next (((of_popRet hw hp).then_setFlags (Flags.changesOnly_put s1.flags 7 true)).then_emit .intExit) h

/-- `SBIC`, `SBIS`. -/
theorem of_skipOnIo {a : Word} {cond : Byte → Bool}
    (h : ((memRead s a).bind fun (v, s1) => skip s1 (cond v)) = .next t) : FlagStep ks s t := by
  obtain ⟨⟨v, s1⟩, hr, h⟩ := Res.bind_eq_next.mp h
  exact of_skip ((refl hw).then_memRead hr) h

end shapes

/-! ### Every instruction -/

/-- R28: by the shape of its meaning, an instruction whose stores spare `SREG` changes no flag outside its row. -/
theorem of_exec {i : Instr} (hw : s.dm.wf = true)
    (hs : writesData i = true → ∀ a ∈ dataAccesses i s, s.cfg.Spares a sregAddr) (h : exec i s = .next t) :
    FlagStep (flagsWritten i) s t := by
  cases i with dsimp only [exec] at h
  | add | adc | lsl | rol => exact of_writeRegFlags hw (Flags.changesOnly_addFlags _ _ _ _) h
  | sub | subi | sbc | sbci => exact of_writeRegFlags hw (Flags.changesOnly_subFlags _ _ _ _ _) h
  | cp | cpc | cpi => exact of_writeFlags hw (Flags.changesOnly_subFlags _ _ _ _ _) h
  | and | andi | or | ori | eor | tst | clr | sbr | cbr =>
    exact of_writeRegFlags hw (Flags.changesOnly_logicFlags _ _) h
  | adiw => exact of_writePairFlags hw (Flags.changesOnly_adiwFlags _ _ _) h
  | sbiw => exact of_writePairFlags hw (Flags.changesOnly_sbiwFlags _ _ _) h
  | com => exact of_writeRegFlags hw (Flags.changesOnly_comFlags _ _) h
  | neg => exact of_writeRegFlags hw (Flags.changesOnly_negFlags _ _ _) h
  | inc | dec => exact of_writeRegFlags hw (Flags.changesOnly_stepFlags _ _ _) h
  | lsr | ror | asr => exact of_writeRegFlags hw (Flags.changesOnly_shiftRightFlags _ _ _) h
  | mul | muls | mulsu | fmul | fmuls | fmulsu => exact of_writePairFlags hw (Flags.changesOnly_mulFlags _ _ _) h
  | bset | bclr | sec | sez | sen | sev | ses | seh | set_ | sei | clc | clz | cln | clv | cls | clh | clt | cli =>
    exact of_writeFlags hw (Flags.changesOnly_put _ _ _) h
  | bst d b => exact of_writeFlags hw (Flags.changesOnly_put _ 6 _) h
  | reti => exact of_returnFromInterrupt hw h
  | swap | bld | mov | ldi | ser => exact of_writeReg hw h
  | movw d r => exact .of_next ((refl hw).then_setPair d (s.pair r)) h
  | rjmp | ijmp | jmp | eijmp | eicall | nop | des | spm | spmZInc => exact of_retire hw h
  | sleep => exact .of_next ((refl hw).then_keepingSreg (t := { s with asleep := true }) rfl hw rfl) h
  | wdr | break_ => exact .of_next ((refl hw).then_emit _) h
  | cpse | sbrc | sbrs => exact of_skip (refl hw) h
  | sbic a b => exact of_skipOnIo hw (cond := fun v => !v.getLsbD b.val) h
  | sbis a b => exact of_skipOnIo hw (cond := fun v => v.getLsbD b.val) h
  | brbs | brbc | brcs | brlo | brcc | brsh | breq | brne | brmi | brpl | brvs | brvc | brlt | brge | brhs | brhc | brts
  | brtc | brie | brid => exact of_branch hw h
  | lds => exact of_readInto (target := fun _ => s.pc + 2) (refl hw) h
  | in_ => exact of_readInto (target := fun s1 => s1.pc + 1) (refl hw) h
  | pop => exact of_readInto (target := fun s1 => s1.pc + 1) ((refl hw).then_setSp _) h
  | ldX | ldXInc | ldXDec | ldYInc | ldYDec | lddY | ldZInc | ldZDec | lddZ => exact of_loadIndirect hw h
  | ldY => exact of_loadIndirect hw (p := .y) (f := .disp 0) h
  | ldZ => exact of_loadIndirect hw (p := .z) (f := .disp 0) h
  | lpm | lpmZ | lpmZInc | elpm | elpmZ | elpmZInc => exact of_loadProgram hw h
  | ret => exact of_execRet hw h
  | rcall | icall | call => exact of_call hw (hs rfl) h
  | push => exact of_execPush hw (hs rfl _ (.head _)) h
  | sts | out => exact of_write hw (hs rfl _ (.head _)) h
  | sbi | cbi => exact of_modifyIo hw (hs rfl _ (.head _)) h
  | xch | las | lac | lat => exact of_exchangeZ hw (hs rfl _ (.head _)) h
  | stX | stXInc | stXDec | stYInc | stYDec | stdY | stZInc | stZDec | stdZ =>
    exact of_storeIndirect hw (hs rfl _ (.head _)) h
  | stY => exact of_storeIndirect hw (p := .y) (f := .disp 0) (hs rfl _ (.head _)) h
  | stZ => exact of_storeIndirect hw (p := .z) (f := .disp 0) (hs rfl _ (.head _)) h

end FlagStep

/-- Settles O46: every instruction is a `FlagStep` of its row in the table. -/
theorem flagsChangeOnlyByTheTable : Obligations.FlagsChangeOnlyByTheTable :=
  fun _ _ _ hw hs h => (FlagStep.of_exec hw hs h).flags

end Sys2Proof.Machine
end

section
/-! PROOFS. The memory dispatch (spec/20 R62 to R65): what a data read answers, what a data write leaves, and which fetch
faults. -/

namespace Sys2Proof.Machine

/-! ### Handled addresses -/

/-- R63, R68: an address is handled where it lies in the I/O space and a binding with a handler of that kind covers it. -/
theorem handled_iff {c : Config} {handles : Binding → Bool} {a : Nat} :
    (Config.ioSpace a && c.bindings.any fun b => handles b && b.covers a) = true ↔
      32 ≤ a ∧ a ≤ 255 ∧ ∃ b ∈ c.bindings, handles b = true ∧ b.first ≤ a ∧ a ≤ b.last := by
  simp only [Config.ioSpace, Binding.covers, Bool.and_eq_true, List.any_eq_true, decide_eq_true_eq, and_assoc]

/-! ### Reading -/

/-- What a data read at an address in range leaves: a handled one is recorded and draws a free value (R69). -/
def State.afterRead (s : State) (a : Word) : State := { s with outputs := readOutputs s a, draws := readDraws s a }

/-- R64: a data read in range goes on with the byte observed. -/
theorem memRead_in {s : State} {a : Word} (h : a.toNat < s.cfg.dataSize) :
    memRead s a = .next (observed s a, s.afterRead a) := by
  rcases memRead_cases s a with ⟨hout, -⟩ | ⟨-, hc, e⟩ | ⟨-, hc, e⟩
  · omega
  · simp [e, observed, State.afterRead, readOutputs, readDraws, hc, State.emit, State.drawn]
  · simp [e, observed, State.afterRead, readOutputs, readDraws, hc]

theorem observed_plain {s : State} {a : Word} (hc : s.cfg.readChained a.toNat = false) :
    observed s a = s.byte a.toNat := by
  simp [observed, hc]

theorem readOutputs_plain {s : State} {a : Word} (hc : s.cfg.readChained a.toNat = false) :
    readOutputs s a = s.outputs := by
  simp [readOutputs, hc]

theorem readDraws_plain {s : State} {a : Word} (hc : s.cfg.readChained a.toNat = false) :
    readDraws s a = s.draws := by
  simp [readDraws, hc]

theorem afterRead_plain {s : State} {a : Word} (hc : s.cfg.readChained a.toNat = false) : s.afterRead a = s := by
  rw [State.afterRead, readOutputs_plain hc, readDraws_plain hc]

/-- Settles O48: out of range by `memRead_out`, in range by `memRead_in`, at plain storage by `memRead_plain`. -/
theorem memReadRoutes : Obligations.MemReadRoutes := by
  refine fun s a => ⟨memRead_out, fun hlt hc => ?_, memRead_plain, handled_iff⟩
  rw [memRead_in hlt]
  simp [observed, State.afterRead, readOutputs, readDraws, hc]

/-! ### Writing -/

/-- R65 after the veto: what a stored byte leaves. -/
theorem storeByte_leaves {s t : State} {a : Word} {v : Byte} (hw : s.dm.wf = true) (h : storeByte s a v = .next t) :
    if s.cfg.writeChained a.toNat then
      t.outputs = .ioWrite a v :: s.outputs ∧ ∀ x, s.cfg.owned x = false → t.byte x = s.byte x
    else t.outputs = s.outputs ∧ ∀ x, t.byte x = assign s.byte a.toNat v x := by
  rcases storeByte_cases s a v with ⟨-, e⟩ | ⟨-, hc, e⟩ | ⟨-, hc, e⟩ <;> rw [e] at h <;> cases h
  · rw [if_pos hc]
    exact ⟨rfl, fun x hx => State.byte_freeIoBytes (s := s.emit (.ioWrite a v)) hw hx⟩
  · rw [if_neg (by simp [hc])]
    exact ⟨rfl, fun x => State.byte_setByte hw a.toNat x v⟩

/-- R65: a data write that goes on leaves what `WriteLeaves` says. -/
theorem memWrite_leaves {s t : State} {a : Word} {v : Byte} (hw : s.dm.wf = true) (h : memWrite s a v = .next t) :
    WriteLeaves s t s.outputs s.draws a v := by
  unfold memWrite at h
  unfold WriteLeaves
  cases ho : s.cfg.callouts.contains a.toNat with
  | false =>
    simp only [ho, Bool.false_and, Bool.false_eq_true, if_false] at h ⊢
    exact storeByte_leaves hw h
  | true =>
    simp only [ho, Bool.true_and, if_true] at h ⊢
    split at h
    · next hv =>
      cases h
      rw [if_pos hv]
      exact ⟨rfl, fun _ => rfl⟩
    · next hv =>
      rw [if_neg hv]
      exact storeByte_leaves (s := (s.emit (.writeOffer a v)).drawn) hw h

theorem storeByte_in {s : State} {a : Word} (v : Byte) (h : a.toNat < s.cfg.dataSize) :
    ∃ t, storeByte s a v = .next t := by
  rcases storeByte_cases s a v with ⟨hout, -⟩ | ⟨-, -, e⟩ | ⟨-, -, e⟩
  · omega
  · exact ⟨_, e⟩
  · exact ⟨_, e⟩

/-- R65: a data write in range goes on, vetoed or not. -/
theorem memWrite_in {s : State} {a : Word} (v : Byte) (h : a.toNat < s.cfg.dataSize) : ∃ t, memWrite s a v = .next t := by
  unfold memWrite
  split
  · dsimp only
    split
    · exact ⟨_, rfl⟩
    · exact storeByte_in v h
  · exact storeByte_in v h

/-- R65, R66: out of range a write faults unless it is vetoed. -/
theorem memWrite_outside {s : State} {a : Word} {v : Byte} (h : s.cfg.dataSize ≤ a.toNat) :
    memWrite s a v =
      if s.cfg.callouts.contains a.toNat && Config.freeVeto s.draws then .next (s.emit (.writeOffer a v)).drawn
      else .fault (.dataOutOfRange a) := by
  cases ho : s.cfg.callouts.contains a.toNat with
  | false => exact memWrite_out h ho
  | true =>
    rw [memWrite, if_pos ho]
    cases Config.freeVeto s.draws with
    | true => rfl
    | false => exact if_pos h

/-- Settles O49: out of range by `memWrite_outside`; in range the write goes on and leaves what `memWrite_leaves` says. -/
theorem memWriteRoutes : Obligations.MemWriteRoutes := by
  refine fun s a v hw => ⟨memWrite_outside, fun hlt => ?_, handled_iff⟩
  obtain ⟨t, e⟩ := memWrite_in v hlt
  refine ⟨t, e, ?_, memWrite_leaves hw e⟩
  obtain ⟨d, -⟩ := memWrite_next e
  exact d.same

/-! ### Fetch -/

theorem step_fault_of_fetch {s : State} {e : Fault} (ha : s.asleep = false) (h : fetch s = .fault e) :
    step s = .fault e := by
  simp [step, ha, runInstruction, h]

/-- Settles O43: the first word, then the second, is read by `PmRead`. -/
theorem fetchOutsideProgramMemoryFaults : Obligations.FetchOutsideProgramMemoryFaults := by
  refine fun s ha => ⟨fun hout => step_fault_of_fetch ha ?_, fun hin h2 hout => step_fault_of_fetch ha ?_⟩
  · rw [fetch, pmRead_out hout, Res.bind_fault]
  · rw [fetch, pmRead_in hin, Res.bind_next, if_pos h2, pmRead_out hout, Res.bind_fault]

/-! ### One byte written -/

/-- An instruction that writes one byte and advances. -/
theorem finishes_of_setByte {i : Instr} {s : State} {target : Word} {n a : Nat} {v : Byte} (hw : s.dm.wf = true)
    (h : exec i s = .next ((s.setByte a v).retire target n)) : Finishes i s target n (assign s.byte a v) :=
  ⟨s.dm.set a v, h, fun _ => Memory.get_set hw⟩

/-- Settles O23: each is one plain access, or the fault of that access. -/
theorem directLoadAndStore : Obligations.DirectLoadAndStore := by
  refine fun s d r k hw => ⟨fun hlt hc => ?_, fun hout => ?_, fun ⟨hlt, _, hc, hv⟩ => ?_, fun hout hv => ?_⟩
  · exact finishes_of_setByte hw (by simp [exec, execLds, memRead_plain hlt hc, State.setReg])
  · simp [exec, execLds, memRead_out hout]
  · exact finishes_of_setByte hw (by simp [exec, execSts, memWrite_plain hlt hc hv])
  · simp [exec, execSts, memWrite_out hout hv]

end Sys2Proof.Machine
end

section
/-! PROOFS. The I/O instructions (spec/43 R280, R281; spec/44 R334, R335; spec/45 R410, R411): their addresses are always in
range, so each goes on as the dispatch leaves it. -/

namespace Sys2Proof.Machine

/-! ### Addresses and bits -/

theorem ioAddr6_eq (a : BitVec 6) : ioAddr6 a = BitVec.ofNat 16 (a.toNat + 32) := by
  apply BitVec.eq_of_toNat_eq
  simp [ioAddr6]

theorem ioAddr5_eq (a : BitVec 5) : ioAddr5 a = BitVec.ofNat 16 (a.toNat + 32) := by
  apply BitVec.eq_of_toNat_eq
  simp [ioAddr5]

@[simp] theorem ioAddr6_toNat (a : BitVec 6) : (ioAddr6 a).toNat = a.toNat + 32 := by
  have := a.isLt
  rw [ioAddr6_eq, BitVec.toNat_ofNat]
  omega

@[simp] theorem ioAddr5_toNat (a : BitVec 5) : (ioAddr5 a).toNat = a.toNat + 32 := by
  have := a.isLt
  rw [ioAddr5_eq, BitVec.toNat_ofNat]
  omega

/-- R8, R74: an I/O address lies below every legal `DATA_SIZE`. -/
theorem ioAddr6_lt {c : Config} (hl : c.Legal) (a : BitVec 6) : (ioAddr6 a).toNat < c.dataSize := by
  have := a.isLt
  obtain ⟨-, -, hsize, -⟩ := hl
  rw [ioAddr6_toNat]
  omega

theorem ioAddr5_lt {c : Config} (hl : c.Legal) (a : BitVec 5) : (ioAddr5 a).toNat < c.dataSize := by
  have := a.isLt
  obtain ⟨-, -, hsize, -⟩ := hl
  rw [ioAddr5_toNat]
  omega

theorem setBit_eq (v : Byte) (b : Fin 8) : setBit v b = v ||| BitVec.ofNat 8 (2 ^ b.val) := by
  fin_cases b <;> rfl

theorem clearBit_eq (v : Byte) (b : Fin 8) : clearBit v b = v &&& BitVec.ofNat 8 (255 - 2 ^ b.val) := by
  fin_cases b <;> rfl

/-! ### Writing -/

/-- R65, R155: a data write in range followed by the advance of a one-word instruction. -/
theorem memWrite_retireNext {s : State} {a : Word} (v : Byte) (n : Nat) (hw : s.dm.wf = true)
    (h : a.toNat < s.cfg.dataSize) :
    ∃ t : State, ((memWrite s a v).bind fun u => .next (u.retireNext n)) = .next t ∧ SameControl s t ∧
      t.pc = s.pc + 1 ∧ t.cycles = s.cycles + n ∧ t.instructions = s.instructions + 1 ∧
      WriteLeaves s t s.outputs s.draws a v := by
  obtain ⟨u, e⟩ := memWrite_in v h
  obtain ⟨d, -⟩ := memWrite_next e
  have leaves := memWrite_leaves hw e
  refine ⟨u.retireNext n, by rw [e, Res.bind_next], ?_, ?_, ?_, ?_, leaves⟩
  · exact ⟨d.rom, d.asleep, d.intPrio, d.intPending, d.ticks, d.schedule, d.cfg⟩
  · rw [State.retireNext_pc, d.pc]
  · rw [State.retireNext_cycles, d.cycles]
  · rw [State.retireNext_instructions, d.instructions]

/-- R280, R281: `SBI` and `CBI` write back what they observe, changed. -/
theorem modifyIo_in {s : State} (hl : s.cfg.Legal) (a : BitVec 5) (f : Byte → Byte) :
    modifyIo s a f = (memWrite (s.afterRead (ioAddr5 a)) (ioAddr5 a) (f (observed s (ioAddr5 a)))).bind
      fun u => .next (u.retireNext 2) := by
  rw [modifyIo, memRead_in (ioAddr5_lt hl a), Res.bind_next]

/-- R74, R280, R281: at a plain address one byte changes. -/
theorem modifyIo_plain {s : State} (hl : s.cfg.Legal) {a : BitVec 5} (hp : s.PlainAt (ioAddr5 a)) (f : Byte → Byte) :
    modifyIo s a f = .next ((s.setByte (a.toNat + 32) (f (s.byte (a.toNat + 32)))).retireNext 2) := by
  obtain ⟨hr, hc, hv⟩ := hp
  rw [modifyIo_in hl, afterRead_plain hr, observed_plain hr, memWrite_plain (ioAddr5_lt hl a) hc hv, Res.bind_next,
    ioAddr5_toNat]

/-- Settles O13: both are `modifyIo` at a plain address. -/
theorem ioBitWrites : Obligations.IoBitWrites := by
  intro s a b hl hw hp
  rw [← ioAddr5_eq] at hp
  rw [← setBit_eq, ← clearBit_eq]
  exact ⟨finishes_of_setByte hw (modifyIo_plain hl hp fun v => setBit v b),
    finishes_of_setByte hw (modifyIo_plain hl hp fun v => clearBit v b)⟩

/-- Settles O30: one plain access each, in range in every legal configuration. -/
theorem ioReadAndWrite : Obligations.IoReadAndWrite := by
  intro s d r a hl hw
  rw [← ioAddr6_toNat]
  refine ⟨fun hr => finishes_of_setByte hw ?_, fun hc hv => finishes_of_setByte hw ?_⟩
  · rw [exec, execIn, memRead_plain (ioAddr6_lt hl a) hr, Res.bind_next]
    rfl
  · rw [exec, execOut, memWrite_plain (ioAddr6_lt hl a) hc hv, Res.bind_next]
    rfl

/-! ### Skipping -/

/-- R330: past the next instruction, which is read to size it. -/
theorem skip_in {s : State} (h : (s.pc + 1).toNat < s.cfg.romWords) :
    skip s true = .next (s.retire (s.pc + 1 + BitVec.ofNat 16 (wordSize (s.rom.get (s.pc + 1).toNat)))
      (1 + wordSize (s.rom.get (s.pc + 1).toNat))) := by
  rw [skip, if_pos rfl, pmRead_in h, Res.bind_next]

/-- R330: the next opcode cannot be read. -/
theorem skip_out {s : State} (h : s.cfg.romWords ≤ (s.pc + 1).toNat) :
    skip s true = .fault (.programOutOfRange (s.pc + 1)) := by
  rw [skip, if_pos rfl, pmRead_out h, Res.bind_fault]

/-- R330 after a data read in range. -/
theorem skipsOnBit_of_exec {i : Instr} {s : State} {a : Word} {cond : Bool}
    (h : exec i s = skip (s.afterRead a) cond) : SkipsOnBit i s a cond := by
  unfold SkipsOnBit
  cases cond with
  | false => exact h
  | true =>
    by_cases hout : s.cfg.romWords ≤ (s.pc + 1).toNat
    · rw [if_pos ⟨rfl, hout⟩]
      exact h.trans (skip_out (s := s.afterRead a) hout)
    · rw [if_neg fun k => hout k.2]
      exact h.trans (skip_in (s := s.afterRead a) (Nat.lt_of_not_le hout))

theorem skipsOnBit_sbic {s : State} (hl : s.cfg.Legal) (a : BitVec 5) (b : Fin 8) :
    SkipsOnBit (.sbic a b) s (ioAddr5 a) (!(observed s (ioAddr5 a)).getLsbD b.val) :=
  skipsOnBit_of_exec (by rw [exec, execSbic, memRead_in (ioAddr5_lt hl a), Res.bind_next])

theorem skipsOnBit_sbis {s : State} (hl : s.cfg.Legal) (a : BitVec 5) (b : Fin 8) :
    SkipsOnBit (.sbis a b) s (ioAddr5 a) ((observed s (ioAddr5 a)).getLsbD b.val) :=
  skipsOnBit_of_exec (by rw [exec, execSbis, memRead_in (ioAddr5_lt hl a), Res.bind_next])

/-- Where no read chain takes the address, the read leaves no trace and the skip is that of R330. -/
theorem skips_of_skipsOnBit {i : Instr} {s : State} {a : Word} {cond : Bool}
    (hr : s.cfg.readChained a.toNat = false) (h : SkipsOnBit i s a cond) : Skips i s cond := by
  rw [SkipsOnBit, readOutputs_plain hr, readDraws_plain hr] at h
  refine ⟨?_, ?_, ?_⟩
  · rintro rfl
    exact ⟨s.dm, h, fun _ => rfl⟩
  · rintro rfl hin
    rw [if_neg fun k => Nat.not_le.mpr hin k.2] at h
    exact ⟨s.dm, h, fun _ => rfl⟩
  · rintro rfl hout
    rwa [if_pos ⟨rfl, hout⟩] at h

/-- Settles O20: the skips in any environment, where the read leaves no trace. -/
theorem ioSkips : Obligations.IoSkips := by
  intro s a b hl hr
  rw [← ioAddr5_toNat] at hr ⊢
  rw [← observed_plain hr]
  exact ⟨skips_of_skipsOnBit hr (skipsOnBit_sbic hl a b), skips_of_skipsOnBit hr (skipsOnBit_sbis hl a b)⟩

/-! ### Any environment -/

/-- Settles O31: the read is `memRead_in`, the write `memWrite_retireNext` from the state the read leaves. -/
theorem ioInstructionsCompleteUnderAnyEnvironment : Obligations.IoInstructionsCompleteUnderAnyEnvironment := by
  intro s d r a a5 b hl hw
  dsimp only
  rw [← ioAddr6_eq, ← ioAddr5_eq, ← setBit_eq, ← clearBit_eq]
  refine ⟨⟨s.dm.set d.val (observed s (ioAddr6 a)), ?_, fun _ => Memory.get_set hw⟩, ?_, ?_, ?_, skipsOnBit_sbic hl a5 b,
    skipsOnBit_sbis hl a5 b⟩
  · rw [exec, execIn, memRead_in (ioAddr6_lt hl a), Res.bind_next]
    rfl
  · exact memWrite_retireNext (s.reg r) 1 hw (ioAddr6_lt hl a)
  · rw [exec, execSbi, modifyIo_in hl]
    exact memWrite_retireNext (s := s.afterRead (ioAddr5 a5)) _ 2 hw (ioAddr5_lt hl a5)
  · rw [exec, execCbi, modifyIo_in hl]
    exact memWrite_retireNext (s := s.afterRead (ioAddr5 a5)) _ 2 hw (ioAddr5_lt hl a5)

end Sys2Proof.Machine
end

section
/-! PROOFS. The frame of the data accesses, in any configuration (spec/20 R64, R65, R69, R70, R72): which bytes an instruction
that accesses data may change and which bus events it may add. -/

namespace Sys2Proof.Machine

/-! ### Events -/

/-- `after` is `before` with further events, all of them allowed. -/
def AddsOnly (allowed : Output → Prop) (before after : List Output) : Prop :=
  ∃ events, after = events ++ before ∧ ∀ e ∈ events, allowed e

namespace AddsOnly

variable {allowed allowed' : Output → Prop} {l l' l'' : List Output}

theorem refl : AddsOnly allowed l l := ⟨[], rfl, by simp⟩

theorem one {o : Output} (h : allowed o) : AddsOnly allowed l (o :: l) := ⟨[o], rfl, by simp [h]⟩

theorem trans (h : AddsOnly allowed l l') (k : AddsOnly allowed l' l'') : AddsOnly allowed l l'' := by
  obtain ⟨es, rfl, hes⟩ := h
  obtain ⟨fs, rfl, hfs⟩ := k
  refine ⟨fs ++ es, by rw [List.append_assoc], fun e he => ?_⟩
  exact (List.mem_append.mp he).elim (hfs e) (hes e)

theorem mono (h : AddsOnly allowed l l') (ha : ∀ e, allowed e → allowed' e) : AddsOnly allowed' l l' := by
  obtain ⟨es, e, hes⟩ := h
  exact ⟨es, e, fun e he => ha e (hes e he)⟩

end AddsOnly

/-- R69: the events of a data read are at its address. -/
theorem memRead_events {s t : State} {a : Word} {v : Byte} (h : memRead s a = .next (v, t)) :
    AddsOnly (fun e => busAddress e = some a) s.outputs t.outputs := by
  rcases memRead_cases s a with ⟨-, e⟩ | ⟨-, -, e⟩ | ⟨-, -, e⟩ <;> rw [e] at h <;> cases h
  · exact .one rfl
  · exact .refl

/-- R70, R72: the events of a data write are at its address. -/
theorem memWrite_events {s t : State} {a : Word} {v : Byte} (hw : s.dm.wf = true) (h : memWrite s a v = .next t) :
    AddsOnly (fun e => busAddress e = some a) s.outputs t.outputs := by
  have offer : AddsOnly (fun e => busAddress e = some a) s.outputs
      (if s.cfg.callouts.contains a.toNat then .writeOffer a v :: s.outputs else s.outputs) := by
    split
    · exact .one rfl
    · exact .refl
  have leaves := memWrite_leaves hw h
  simp only [WriteLeaves] at leaves
  split at leaves
  · obtain ⟨houtputs, -⟩ := leaves
    exact houtputs ▸ offer
  · split at leaves
    · obtain ⟨houtputs, -⟩ := leaves
      exact houtputs ▸ offer.trans (.one rfl)
    · obtain ⟨houtputs, -⟩ := leaves
      exact houtputs ▸ offer

/-! ### What an access may change -/

/-- R64, R65, R69, R70, R72: the outputs an instruction that accesses data may add (`int_exit` by R312). -/
def AccessEvent (i : Instr) (s : State) (e : Output) : Prop :=
  (∃ a ∈ dataAccesses i s, busAddress e = some a) ∨ (i = .reti ∧ e = .intExit)

/-- The stores of the instruction begun in `s`, if it makes any, leave the byte `x` alone. -/
def StoresSpare (i : Instr) (s : State) (x : Nat) : Prop :=
  writesData i = true → ∀ a ∈ dataAccesses i s, s.cfg.Spares a x

/-- From `s` to `t` the instruction `i`, begun in `s`, kept to its direct bytes, its stores and the events of its accesses;
a later access meets the same configuration and a canonical data space. -/
structure AccessStep (i : Instr) (s t : State) : Prop where
  cfg : t.cfg = s.cfg
  wf : t.dm.wf = true
  events : AddsOnly (AccessEvent i s) s.outputs t.outputs
  bytes : ∀ x, x ∉ directBytes i → StoresSpare i s x → t.byte x = s.byte x

namespace AccessStep

variable {i : Instr} {s t u : State}

theorem refl (hw : s.dm.wf = true) : AccessStep i s s := ⟨rfl, hw, .refl, fun _ _ _ => rfl⟩

/-- R24: a direct write. -/
theorem then_setByte (h : AccessStep i s u) {a : Nat} (ha : a ∈ directBytes i) (v : Byte) :
    AccessStep i s (u.setByte a v) := by
  refine ⟨h.cfg, State.wf_setByte h.wf a v, h.events, fun x hx hs => ?_⟩
  have hne : x ≠ a := fun e => hx (e ▸ ha)
  rw [State.byte_setByte h.wf, if_neg hne, h.bytes x hx hs]

theorem then_setReg (h : AccessStep i s u) {d : Reg} (hd : d.val ∈ directBytes i) (v : Byte) :
    AccessStep i s (u.setReg d v) :=
  h.then_setByte hd v

theorem then_setPointer (h : AccessStep i s u) {p : Pointer} (hp : ∀ a ∈ [p.low.val, p.low.val + 1], a ∈ directBytes i)
    (v : Word) : AccessStep i s (u.setPair p.low v) :=
  (h.then_setByte (hp _ (by simp)) v.lo).then_setByte (hp _ (by simp)) v.hi

theorem then_setSp (h : AccessStep i s u) (hl : splAddr ∈ directBytes i) (hh : sphAddr ∈ directBytes i) (v : Word) :
    AccessStep i s (u.setSp v) :=
  (h.then_setByte hl v.lo).then_setByte hh v.hi

theorem then_memRead {a : Word} {v : Byte} (h : AccessStep i s u) (ha : a ∈ dataAccesses i s)
    (hr : memRead u a = .next (v, t)) : AccessStep i s t := by
  obtain ⟨-, d, hdm⟩ := memRead_next hr
  refine ⟨d.cfg.trans h.cfg, d.wf h.wf, h.events.trans ((memRead_events hr).mono fun e he => .inl ⟨a, ha, he⟩), ?_⟩
  intro x hx hs
  rw [State.byte, hdm]
  exact h.bytes x hx hs

theorem then_memWrite {a : Word} {v : Byte} (h : AccessStep i s u) (hi : writesData i = true)
    (ha : a ∈ dataAccesses i s) (hr : memWrite u a v = .next t) : AccessStep i s t := by
  obtain ⟨d, hb⟩ := memWrite_next hr
  refine ⟨d.cfg.trans h.cfg, d.wf h.wf,
    h.events.trans ((memWrite_events h.wf hr).mono fun e he => .inl ⟨a, ha, he⟩), fun x hx hs => ?_⟩
  rw [hb h.wf x (h.cfg ▸ hs hi a ha), h.bytes x hx hs]

/-- R360: the pointer update before an indirect access. -/
theorem then_updateBefore (h : AccessStep i s u) {p : Pointer} {f : Form}
    (hp : ∀ a ∈ pointerBytes p f, a ∈ directBytes i) (a : Word) : AccessStep i s (updateBefore u p a f) := by
  cases f with
  | preDec => exact h.then_setPointer hp a
  | plain | postInc | disp => exact h

/-- R360: the pointer update after an indirect access. -/
theorem then_updateAfter (h : AccessStep i s u) {p : Pointer} {f : Form}
    (hp : ∀ a ∈ pointerBytes p f, a ∈ directBytes i) (a : Word) : AccessStep i s (updateAfter u p a f) := by
  cases f with
  | postInc => exact h.then_setPointer hp (a + 1)
  | plain | preDec | disp => exact h

/-- An instruction that answers `u` advanced. -/
theorem of_next {target : Word} {n : Nat} (hu : AccessStep i s u)
    (h : (.next (u.retire target n) : Res State) = .next t) : AccessStep i s t := by
  cases h
  exact ⟨hu.cfg, hu.wf, hu.events, hu.bytes⟩

/-! ### The instruction shapes

Where an instruction is a variable, the premises say what its row in the tables of accesses and of direct bytes holds. -/

/-- `LDS`, `IN`, `POP`. -/
theorem of_readInto {a : Word} {n : Nat} {d : Reg} {target : State → Word} (hu : AccessStep i s u)
    (ha : a ∈ dataAccesses i s) (hd : d.val ∈ directBytes i)
    (h : ((memRead u a).bind fun (v, s1) => .next ((s1.setReg d v).retire (target s1) n)) = .next t) :
    AccessStep i s t := by
  obtain ⟨⟨v, s1⟩, hr, h⟩ := Res.bind_eq_next.mp h
  exact .of_next ((hu.then_memRead ha hr).then_setReg hd v) h

/-- R330: a skip accesses no data. -/
theorem of_skip {cond : Bool} (hu : AccessStep i s u) (h : skip u cond = .next t) : AccessStep i s t := by
  unfold skip at h
  split at h
  · obtain ⟨wn, -, h⟩ := Res.bind_eq_next.mp h
    exact .of_next hu h
  · exact .of_next hu h

section shapes

variable (hw : s.dm.wf = true)
include hw

theorem of_loadIndirect {p : Pointer} {f : Form} {d : Reg} (ha : dataAccesses i s = [effectiveAddress s p f])
    (hd : directBytes i = d.val :: pointerBytes p f) (h : loadIndirect s p f d = .next t) : AccessStep i s t := by
  have hp : ∀ a ∈ pointerBytes p f, a ∈ directBytes i := fun a hm => hd ▸ List.mem_cons_of_mem _ hm
  unfold loadIndirect at h
  split at h
  · cases h
  · obtain ⟨⟨v, s1⟩, hr, h⟩ := Res.bind_eq_next.mp h
    have read := ((refl hw).then_updateBefore hp _).then_memRead (ha ▸ .head _) hr
    exact .of_next ((read.then_updateAfter hp _).then_setReg (hd ▸ .head _) v) h

theorem of_storeIndirect {p : Pointer} {f : Form} {r : Reg} (hi : writesData i = true)
    (ha : dataAccesses i s = [effectiveAddress s p f]) (hd : directBytes i = pointerBytes p f)
    (h : storeIndirect s p f r = .next t) : AccessStep i s t := by
  have hp : ∀ a ∈ pointerBytes p f, a ∈ directBytes i := fun a hm => hd ▸ hm
  unfold storeIndirect at h
  split at h
  · cases h
  · obtain ⟨s1, hr, h⟩ := Res.bind_eq_next.mp h
    have written := ((refl hw).then_updateBefore hp _).then_memWrite hi (ha ▸ .head _) hr
    exact .of_next (written.then_updateAfter hp _) h

/-- `STS`, `OUT`. -/
theorem of_write {a : Word} {v : Byte} {n : Nat} {target : State → Word} (hi : writesData i = true)
    (ha : a ∈ dataAccesses i s)
    (h : ((memWrite s a v).bind fun s1 => .next (s1.retire (target s1) n)) = .next t) : AccessStep i s t := by
  obtain ⟨s1, hr, h⟩ := Res.bind_eq_next.mp h
  exact .of_next ((refl hw).then_memWrite hi ha hr) h

theorem of_exchangeZ {d : Reg} {f : Byte → Byte → Byte} (hi : writesData i = true)
    (ha : s.pair Pointer.z.low ∈ dataAccesses i s) (hd : d.val ∈ directBytes i) (h : exchangeZ s d f = .next t) :
    AccessStep i s t := by
  obtain ⟨⟨old, s1⟩, hr, h⟩ := Res.bind_eq_next.mp h
  obtain ⟨s2, hr2, h⟩ := Res.bind_eq_next.mp h
  exact .of_next ((((refl hw).then_memRead ha hr).then_memWrite hi ha hr2).then_setReg hd old) h

theorem of_modifyIo {a : BitVec 5} {f : Byte → Byte} (hi : writesData i = true) (ha : ioAddr5 a ∈ dataAccesses i s)
    (h : modifyIo s a f = .next t) : AccessStep i s t := by
  obtain ⟨⟨v, s1⟩, hr, h⟩ := Res.bind_eq_next.mp h
  obtain ⟨s2, hr2, h⟩ := Res.bind_eq_next.mp h
  exact .of_next (((refl hw).then_memRead ha hr).then_memWrite hi ha hr2) h

/-- `SBIC`, `SBIS`. -/
theorem of_skipOnIo {a : Word} {cond : Byte → Bool} (ha : a ∈ dataAccesses i s)
    (h : ((memRead s a).bind fun (v, s1) => skip s1 (cond v)) = .next t) : AccessStep i s t := by
  obtain ⟨⟨v, s1⟩, hr, h⟩ := Res.bind_eq_next.mp h
  exact of_skip ((refl hw).then_memRead ha hr) h

theorem of_execPush {r : Reg} (h : execPush r s = .next t) : AccessStep (.push r) s t := by
  obtain ⟨s1, hr, h⟩ := Res.bind_eq_next.mp h
  have written : AccessStep (.push r) s s1 := (refl hw).then_memWrite rfl (.head _) hr
  exact .of_next (written.then_setSp (.head _) (.tail _ (.head _)) _) h

/-- `RCALL`, `ICALL`, `CALL` (R301). -/
theorem of_call {ret : Word} {n : Nat} {target : State → Word} (hi : writesData i = true)
    (ha : dataAccesses i s = [s.sp, s.sp - 1]) (hd : directBytes i = [splAddr, sphAddr])
    (h : ((pushRet s ret).bind fun s1 => .next (s1.retire (target s1) n)) = .next t) : AccessStep i s t := by
  obtain ⟨s1, hp, h⟩ := Res.bind_eq_next.mp h
  obtain ⟨u1, h1, hp⟩ := Res.bind_eq_next.mp hp
  obtain ⟨u2, h2, hp⟩ := Res.bind_eq_next.mp hp
  cases hp
  have pushed := ((refl hw).then_memWrite hi (by simp [ha]) h1).then_memWrite hi (by simp [ha]) h2
  exact .of_next (pushed.then_setSp (by simp [hd]) (by simp [hd]) _) h

theorem of_popRet {ret : Word} (ha : dataAccesses i s = [s.sp + 1, s.sp + 2]) (hl : splAddr ∈ directBytes i)
    (hh : sphAddr ∈ directBytes i) (h : popRet s = .next (ret, t)) : AccessStep i s t := by
  obtain ⟨⟨hi, s1⟩, h1, h⟩ := Res.bind_eq_next.mp h
  obtain ⟨⟨lo, s2⟩, h2, h⟩ := Res.bind_eq_next.mp h
  cases h
  exact (((refl hw).then_memRead (by simp [ha]) h1).then_memRead (by simp [ha]) h2).then_setSp hl hh _

theorem of_execRet (h : execRet s = .next t) : AccessStep .ret s t := by
  obtain ⟨⟨ret, s1⟩, hp, h⟩ := Res.bind_eq_next.mp h
  exact .of_next (of_popRet hw rfl (by decide) (by decide) hp) h

/-- R312: `RETI` also writes `SREG` and emits `int_exit`. -/
theorem of_returnFromInterrupt (h : returnFromInterrupt s = .next t) : AccessStep .reti s t := by
  obtain ⟨⟨ret, s1⟩, hp, h⟩ := Res.bind_eq_next.mp h
  have popped : AccessStep .reti s s1 := of_popRet hw rfl (by decide) (by decide) hp
  obtain ⟨hcfg, hwf, hev, hbytes⟩ := popped.then_setByte (a := sregAddr) (by decide) { s1.flags with i := true }.toByte
  refine .of_next (u := (s1.setFlags { s1.flags with i := true }).emit .intExit) ⟨hcfg, hwf, ?_, hbytes⟩ h
  exact hev.trans (.one (.inr ⟨rfl, rfl⟩))

end shapes

/-! ### Every instruction that accesses data -/

/-- By the shape of its meaning, an instruction that accesses data keeps to its row of the tables. -/
theorem of_exec {i : Instr} (hw : s.dm.wf = true) (hne : dataAccesses i s ≠ []) (h : exec i s = .next t) :
    AccessStep i s t := by
  cases i with dsimp only [exec] at h
  | lds => exact of_readInto (target := fun _ => s.pc + 2) (refl hw) (.head _) (.head _) h
  | in_ => exact of_readInto (target := fun s1 => s1.pc + 1) (refl hw) (.head _) (.head _) h
  | pop d =>
    have raised : AccessStep (.pop d) s (s.setSp (s.sp + 1)) :=
      (refl hw).then_setSp (.head _) (.tail _ (.head _)) _
    exact of_readInto (target := fun s1 => s1.pc + 1) raised (.head _) (.tail _ (.tail _ (.head _))) h
  | sts | out => exact of_write hw rfl (.head _) h
  | push => exact of_execPush hw h
  | rcall | icall | call => exact of_call hw rfl rfl rfl h
  | ret => exact of_execRet hw h
  | reti => exact of_returnFromInterrupt hw h
  | sbi | cbi => exact of_modifyIo hw rfl (.head _) h
  | sbic a b => exact of_skipOnIo hw (cond := fun v => !v.getLsbD b.val) (.head _) h
  | sbis a b => exact of_skipOnIo hw (cond := fun v => v.getLsbD b.val) (.head _) h
  | xch | las | lac | lat => exact of_exchangeZ hw rfl (.head _) (.head _) h
  | ldX | ldXInc | ldXDec | ldYInc | ldYDec | lddY | ldZInc | ldZDec | lddZ => exact of_loadIndirect hw rfl rfl h
  | ldY => exact of_loadIndirect hw (p := .y) (f := .disp 0) rfl rfl h
  | ldZ => exact of_loadIndirect hw (p := .z) (f := .disp 0) rfl rfl h
  | stX | stXInc | stXDec | stYInc | stYDec | stdY | stZInc | stZDec | stdZ => exact of_storeIndirect hw rfl rfl rfl h
  | stY => exact of_storeIndirect hw (p := .y) (f := .disp 0) rfl rfl rfl h
  | stZ => exact of_storeIndirect hw (p := .z) (f := .disp 0) rfl rfl rfl h
  | _ => exact absurd rfl hne

end AccessStep

/-- What every instruction but `SLEEP` leaves as it was. -/
theorem Retires.sameControl {s t : State} (r : Retires s t) : SameControl s t := by
  obtain ⟨d, -, -⟩ := r
  exact ⟨d.rom, d.asleep, d.intPrio, d.intPending, d.ticks, d.schedule, d.cfg⟩

/-- Settles O35: control is kept by `exec_retires`, and the instruction is an `AccessStep`. -/
theorem dataAccessFrame : Obligations.DataAccessFrame := by
  intro i s t hw hne h
  have hsleep : i ≠ .sleep := by
    rintro rfl
    exact hne rfl
  obtain ⟨-, -, hev, hbytes⟩ := AccessStep.of_exec hw hne h
  exact ⟨(exec_retires hsleep h).sameControl, hev, hbytes⟩

end Sys2Proof.Machine
end

section
/-! PROOFS. What the fields of an encoded word hold (spec/30 R103 to R122): the operands a format was built from, the pattern
above and below them, and in the other direction the part of a word that its decoded operands build again. -/

namespace Sys2Proof

/-! ### Registers, bit numbers and immediates from naturals -/

theorem Reg.val_at (n : Nat) : (Reg.at n).val = n % 32 := rfl

theorem bitAt_val (n : Nat) : (bitAt n).val = n % 8 := rfl

theorem Reg.at_eq {n : Nat} {d : Reg} (h : n = d.val) : Reg.at n = d :=
  Fin.ext (by rw [Reg.val_at, h, Nat.mod_eq_of_lt d.isLt])

theorem bitAt_eq {n : Nat} {b : Fin 8} (h : n = b.val) : bitAt n = b :=
  Fin.ext (by rw [bitAt_val, h, Nat.mod_eq_of_lt b.isLt])

theorem ofNat_eq_of_toNat {m n : Nat} {k : BitVec m} (h : n = k.toNat) : BitVec.ofNat m n = k := by
  rw [h, BitVec.ofNat_toNat, BitVec.setWidth_eq]

theorem Reg.upper_iff {d : Reg} : d.upper = true ↔ 16 ≤ d.val := decide_eq_true_iff

theorem Reg.middle_iff {d : Reg} : d.middle = true ↔ 16 ≤ d.val ∧ d.val < 24 := by simp [Reg.middle]

theorem Reg.even_iff {d : Reg} : d.even = true ↔ d.val % 2 = 0 := beq_iff_eq

theorem Reg.wordPair_iff {d : Reg} : d.wordPair = true ↔ 24 ≤ d.val ∧ d.val % 2 = 0 := by simp [Reg.wordPair]

/-! ### Every decoded register is in the range of its field -/

section ranges

variable (n : Nat)

theorem upper_d4 : (d4 n).upper = true := by
  simp only [Reg.upper_iff, d4, Reg.val_at, field]
  omega

theorem upper_r4 : (r4 n).upper = true := by
  simp only [Reg.upper_iff, r4, Reg.val_at, field]
  omega

theorem middle_d3 : (d3 n).middle = true := by
  simp only [Reg.middle_iff, d3, Reg.val_at, field]
  omega

theorem middle_r3 : (r3 n).middle = true := by
  simp only [Reg.middle_iff, r3, Reg.val_at, field]
  omega

theorem even_dPair : (dPair n).even = true := by
  simp only [Reg.even_iff, dPair, Reg.val_at]
  omega

theorem even_rPair : (rPair n).even = true := by
  simp only [Reg.even_iff, rPair, Reg.val_at]
  omega

theorem wordPair_dWord : (dWord n).wordPair = true := by
  simp only [Reg.wordPair_iff, dWord, Reg.val_at, field]
  omega

end ranges

/-! ### The operands read from a word build their part of it again -/

section reassembly

variable (n : Nat)

theorem fRdRr_read : fRdRr (d5 n) (r5 n) = n % 1024 := by
  simp only [fRdRr, d5, r5, Reg.val_at, field, Nat.reducePow, Nat.div_one]
  omega

theorem fRd_read : fRd (d5 n) = n % 512 - n % 16 := by
  simp only [fRd, d5, Reg.val_at, field, Nat.reducePow]
  omega

theorem fRd4Rr4_read : fRd4Rr4 (d4 n) (r4 n) = n % 256 := by
  simp only [fRd4Rr4, d4, r4, Reg.val_at, field, Nat.reducePow, Nat.div_one]
  omega

theorem fRd3Rr3_read : fRd3Rr3 (d3 n) (r3 n) = n / 16 % 8 * 16 + n % 8 := by
  simp only [fRd3Rr3, d3, r3, Reg.val_at, field, Nat.reducePow, Nat.div_one]
  omega

theorem fMovw_read : fMovw (dPair n) (rPair n) = n % 256 := by
  simp only [fMovw, dPair, rPair, Reg.val_at, field, Nat.reducePow, Nat.div_one]
  omega

theorem fRdK8_read : fRdK8 (d4 n) (k8 n) = n % 4096 := by
  simp only [fRdK8, d4, k8, Reg.val_at, field, Nat.reducePow, Nat.div_one, BitVec.toNat_ofNat]
  omega

theorem fPairK6_read : fPairK6 (dWord n) (k6 n) = n % 256 := by
  simp only [fPairK6, dWord, k6, Reg.val_at, field, Nat.reducePow, Nat.div_one, BitVec.toNat_ofNat]
  omega

theorem fIoB_read : fIoB (a5 n) (b3 n) = n % 256 := by
  simp only [fIoB, a5, b3, bitAt_val, field, Nat.reducePow, Nat.div_one, BitVec.toNat_ofNat]
  omega

theorem fIoRd_read : fIoRd (a6 n) (d5 n) = n % 2048 := by
  simp only [fIoRd, a6, d5, Reg.val_at, field, Nat.reducePow, Nat.div_one, BitVec.toNat_ofNat]
  omega

theorem fBr_read : fBr (b3 n).val (k7 n) = n % 1024 := by
  simp only [fBr, b3, k7, bitAt_val, field, Nat.reducePow, Nat.div_one, BitVec.toNat_ofNat]
  omega

theorem fRdB_read : fRdB (d5 n) (b3 n) = n / 16 % 32 * 16 + n % 8 := by
  simp only [fRdB, d5, b3, Reg.val_at, bitAt_val, field, Nat.reducePow, Nat.div_one]
  omega

/-- The three slices of the displacement (R116). -/
theorem displacement_slices {a b c : Nat} (hb : b < 4) (hc : c < 8) :
    (a * 32 + b * 8 + c) / 32 = a ∧ (a * 32 + b * 8 + c) / 8 % 4 = b ∧ (a * 32 + b * 8 + c) % 8 = c := by
  omega

theorem q6_toNat : (q6 n).toNat = n / 8192 % 2 * 32 + n / 1024 % 4 * 8 + n % 8 := by
  simp only [q6, field, Nat.reducePow, Nat.div_one, BitVec.toNat_ofNat]
  omega

theorem fDisp_read :
    fDisp (d5 n) (q6 n) = n / 8192 % 2 * 8192 + n / 1024 % 4 * 1024 + n / 16 % 32 * 16 + n % 8 := by
  obtain ⟨htop, hmiddle, hlow⟩ := displacement_slices (a := n / 8192 % 2) (b := n / 1024 % 4) (c := n % 8)
    (by omega) (by omega)
  have hd : (d5 n).val = n / 16 % 32 := Nat.mod_mod _ _
  rw [fDisp, q6_toNat, htop, hmiddle, hlow, hd]

theorem s3_read : (s3 n).val = n / 16 % 8 := by
  simp only [s3, bitAt_val, field, Nat.reducePow, Nat.mod_mod]

theorem k12_read : (k12 n).toNat = n % 4096 := by
  simp only [k12, field, Nat.reducePow, Nat.div_one, BitVec.toNat_ofNat, Nat.mod_mod]

theorem fAbs22_read (w2 : Word) : fAbs22 (k22 n w2.toNat) = n / 16 % 32 * 16 + n % 2 := by
  simp only [fAbs22, k22, field, Nat.reducePow, Nat.div_one, BitVec.toNat_ofNat]
  omega

theorem abs22Word2_read (w2 : Word) : abs22Word2 (k22 n w2.toNat) = w2 := by
  refine BitVec.eq_of_toNat_eq ?_
  simp only [abs22Word2, k22, field, Nat.reducePow, Nat.div_one, BitVec.toNat_ofNat]
  omega

end reassembly

/-! ### The fields of a pattern with its operands

`c` is the pattern of the row. Each lemma says that the word does not overflow, what its fields above and below the operands
are, and that the operands read from it are those it was built from. -/

/-- A field above the operands is that of the pattern. -/
theorem field_add_of_lt {c x k : Nat} (h : c % 2 ^ k + x < 2 ^ k) (lo len : Nat) (hlo : k ≤ lo) :
    field (c + x) lo len = c / 2 ^ lo % 2 ^ len := by
  obtain ⟨j, rfl⟩ := Nat.exists_eq_add_of_le hlo
  have hx : x < 2 ^ k := by omega
  have hd : (c + x) / 2 ^ k = c / 2 ^ k := by
    rw [Nat.add_div_eq_of_add_mod_lt (by rwa [Nat.mod_eq_of_lt hx]), Nat.div_eq_of_lt hx, Nat.add_zero]
  rw [field, Nat.pow_add, ← Nat.div_div_eq_div_mul, hd, Nat.div_div_eq_div_mul]

section fields

variable {c : Nat}

theorem fRdRr_fields (hc : c % 1024 = 0) (hl : c < 65536) (d r : Reg) :
    (c + fRdRr d r) % 65536 = c + fRdRr d r ∧
    (∀ lo len, 10 ≤ lo → field (c + fRdRr d r) lo len = c / 2 ^ lo % 2 ^ len) ∧
    d5 (c + fRdRr d r) = d ∧ r5 (c + fRdRr d r) = r := by
  have hx : fRdRr d r < 1024 := by simp only [fRdRr]; omega
  refine ⟨by omega, field_add_of_lt (k := 10) (by omega), Reg.at_eq ?_, Reg.at_eq ?_⟩ <;>
    simp only [field, fRdRr, Nat.reducePow, Nat.div_one] <;> omega

/-- The top bit of `r` lies in the field that tells the groups of the `1001` page apart (R126). -/
theorem mul_group (d r : Reg) : field (0x9C00 + fRdRr d r) 9 3 = 6 ∨ field (0x9C00 + fRdRr d r) 9 3 = 7 := by
  simp only [field, fRdRr, Nat.reducePow]
  omega

theorem fRd_fields (hc : c % 512 < 16) (hl : c < 65536) (d : Reg) :
    (c + fRd d) % 65536 = c + fRd d ∧
    (∀ lo len, 9 ≤ lo → field (c + fRd d) lo len = c / 2 ^ lo % 2 ^ len) ∧
    field (c + fRd d) 0 4 = c % 16 ∧ d5 (c + fRd d) = d := by
  have hx : c % 512 + fRd d < 512 := by simp only [fRd]; omega
  refine ⟨by omega, field_add_of_lt (k := 9) (by omega), ?_, Reg.at_eq ?_⟩ <;>
    simp only [field, fRd, Nat.reducePow, Nat.div_one] <;> omega

theorem fRd4Rr4_fields (hc : c % 256 = 0) (hl : c < 65536) {d r : Reg} (hd : 16 ≤ d.val) (hr : 16 ≤ r.val) :
    (c + fRd4Rr4 d r) % 65536 = c + fRd4Rr4 d r ∧
    (∀ lo len, 8 ≤ lo → field (c + fRd4Rr4 d r) lo len = c / 2 ^ lo % 2 ^ len) ∧
    d4 (c + fRd4Rr4 d r) = d ∧ r4 (c + fRd4Rr4 d r) = r := by
  have hx : fRd4Rr4 d r < 256 := by simp only [fRd4Rr4]; omega
  refine ⟨by omega, field_add_of_lt (k := 8) (by omega), Reg.at_eq ?_, Reg.at_eq ?_⟩ <;>
    simp only [field, fRd4Rr4, Nat.reducePow, Nat.div_one] <;> omega

theorem fRd3Rr3_fields (hc : c % 128 = 0 ∨ c % 128 = 8) (hl : c < 65536) {d r : Reg} (hd : 16 ≤ d.val ∧ d.val < 24)
    (hr : 16 ≤ r.val ∧ r.val < 24) :
    (c + fRd3Rr3 d r) % 65536 = c + fRd3Rr3 d r ∧
    (∀ lo len, 7 ≤ lo → field (c + fRd3Rr3 d r) lo len = c / 2 ^ lo % 2 ^ len) ∧
    field (c + fRd3Rr3 d r) 3 1 = c / 8 % 2 ∧
    d3 (c + fRd3Rr3 d r) = d ∧ r3 (c + fRd3Rr3 d r) = r := by
  have hx : c % 128 + fRd3Rr3 d r < 128 := by simp only [fRd3Rr3]; omega
  refine ⟨by omega, field_add_of_lt (k := 7) (by omega), ?_, Reg.at_eq ?_, Reg.at_eq ?_⟩ <;>
    simp only [field, fRd3Rr3, Nat.reducePow, Nat.div_one] <;> omega

theorem fMovw_fields (hc : c % 256 = 0) (hl : c < 65536) {d r : Reg} (hd : d.val % 2 = 0) (hr : r.val % 2 = 0) :
    (c + fMovw d r) % 65536 = c + fMovw d r ∧
    (∀ lo len, 8 ≤ lo → field (c + fMovw d r) lo len = c / 2 ^ lo % 2 ^ len) ∧
    dPair (c + fMovw d r) = d ∧ rPair (c + fMovw d r) = r := by
  have hx : fMovw d r < 256 := by simp only [fMovw]; omega
  refine ⟨by omega, field_add_of_lt (k := 8) (by omega), Reg.at_eq ?_, Reg.at_eq ?_⟩ <;>
    simp only [field, fMovw, Nat.reducePow, Nat.div_one] <;> omega

theorem fRdK8_fields (hc : c % 4096 = 0) (hl : c < 65536) {d : Reg} (hd : 16 ≤ d.val) (k : Byte) :
    (c + fRdK8 d k) % 65536 = c + fRdK8 d k ∧
    (∀ lo len, 12 ≤ lo → field (c + fRdK8 d k) lo len = c / 2 ^ lo % 2 ^ len) ∧
    d4 (c + fRdK8 d k) = d ∧ k8 (c + fRdK8 d k) = k := by
  have hx : fRdK8 d k < 4096 := by simp only [fRdK8]; omega
  refine ⟨by omega, field_add_of_lt (k := 12) (by omega), Reg.at_eq ?_, ofNat_eq_of_toNat ?_⟩ <;>
    simp only [field, fRdK8, Nat.reducePow, Nat.div_one] <;> omega

theorem fPairK6_fields (hc : c % 256 = 0) (hl : c < 65536) {d : Reg} (hd : 24 ≤ d.val ∧ d.val % 2 = 0) (k : BitVec 6) :
    (c + fPairK6 d k) % 65536 = c + fPairK6 d k ∧
    (∀ lo len, 8 ≤ lo → field (c + fPairK6 d k) lo len = c / 2 ^ lo % 2 ^ len) ∧
    dWord (c + fPairK6 d k) = d ∧ k6 (c + fPairK6 d k) = k := by
  have hx : fPairK6 d k < 256 := by simp only [fPairK6]; omega
  refine ⟨by omega, field_add_of_lt (k := 8) (by omega), Reg.at_eq ?_, ofNat_eq_of_toNat ?_⟩ <;>
    simp only [field, fPairK6, Nat.reducePow, Nat.div_one] <;> omega

theorem fIoB_fields (hc : c % 256 = 0) (hl : c < 65536) (a : BitVec 5) (b : Fin 8) :
    (c + fIoB a b) % 65536 = c + fIoB a b ∧
    (∀ lo len, 8 ≤ lo → field (c + fIoB a b) lo len = c / 2 ^ lo % 2 ^ len) ∧
    a5 (c + fIoB a b) = a ∧ b3 (c + fIoB a b) = b := by
  have hx : fIoB a b < 256 := by simp only [fIoB]; omega
  refine ⟨by omega, field_add_of_lt (k := 8) (by omega), ofNat_eq_of_toNat ?_, bitAt_eq ?_⟩ <;>
    simp only [field, fIoB, Nat.reducePow, Nat.div_one] <;> omega

theorem fIoRd_fields (hc : c % 2048 = 0) (hl : c < 65536) (a : BitVec 6) (d : Reg) :
    (c + fIoRd a d) % 65536 = c + fIoRd a d ∧
    (∀ lo len, 11 ≤ lo → field (c + fIoRd a d) lo len = c / 2 ^ lo % 2 ^ len) ∧
    a6 (c + fIoRd a d) = a ∧ d5 (c + fIoRd a d) = d := by
  have hx : fIoRd a d < 2048 := by simp only [fIoRd]; omega
  refine ⟨by omega, field_add_of_lt (k := 11) (by omega), ofNat_eq_of_toNat ?_, Reg.at_eq ?_⟩ <;>
    simp only [field, fIoRd, Nat.reducePow, Nat.div_one] <;> omega

theorem fBr_fields (hc : c % 1024 = 0) (hl : c < 65536) (i : Fin 8) (k : BitVec 7) :
    (c + fBr i.val k) % 65536 = c + fBr i.val k ∧
    (∀ lo len, 10 ≤ lo → field (c + fBr i.val k) lo len = c / 2 ^ lo % 2 ^ len) ∧
    b3 (c + fBr i.val k) = i ∧ k7 (c + fBr i.val k) = k := by
  have hx : fBr i.val k < 1024 := by simp only [fBr]; omega
  refine ⟨by omega, field_add_of_lt (k := 10) (by omega), bitAt_eq ?_, ofNat_eq_of_toNat ?_⟩ <;>
    simp only [field, fBr, Nat.reducePow, Nat.div_one] <;> omega

theorem fRdB_fields (hc : c % 512 = 0) (hl : c < 65536) (d : Reg) (b : Fin 8) :
    (c + fRdB d b) % 65536 = c + fRdB d b ∧
    (∀ lo len, 9 ≤ lo → field (c + fRdB d b) lo len = c / 2 ^ lo % 2 ^ len) ∧
    field (c + fRdB d b) 3 1 = 0 ∧ d5 (c + fRdB d b) = d ∧ b3 (c + fRdB d b) = b := by
  have hx : fRdB d b < 512 := by simp only [fRdB]; omega
  refine ⟨by omega, field_add_of_lt (k := 9) (by omega), ?_, Reg.at_eq ?_, bitAt_eq ?_⟩ <;>
    simp only [field, fRdB, Nat.reducePow, Nat.div_one] <;> omega

/-- The quotients of a word of format `DISP_Q`: store bit `s`, pointer bit `y`, register `d`, displacement bits `u`, `v`, `x`. -/
theorem dispWord_quotients {s y d u v x n : Nat} (hs : s < 2) (hy : y < 2) (hd : d < 32) (hv : v < 4) (hx : x < 8)
    (hn : n = 32768 + s * 512 + y * 8 + (u * 8192 + v * 1024 + d * 16 + x)) :
    n / 8192 = 4 + u ∧ n / 4096 = 8 + 2 * u ∧ n / 1024 = 32 + 8 * u + v ∧ n / 512 = 64 + 16 * u + 2 * v + s ∧
      n / 16 = 2048 + 512 * u + 64 * v + 32 * s + d ∧ n / 8 = 4096 + 1024 * u + 128 * v + 64 * s + 2 * d + y ∧
      n % 8 = x := by
  refine ⟨?_, ?_, ?_, ?_, ?_, ?_, ?_⟩ <;> omega

/-- `c` is `0x8000` with the store bit 9 and the pointer bit 3 (R125). -/
theorem fDisp_fields (hc : c % 512 = 0 ∨ c % 512 = 8) (hl : c / 1024 = 32) (d : Reg) (q : BitVec 6) :
    (c + fDisp d q) % 65536 = c + fDisp d q ∧
    (field (c + fDisp d q) 12 4 = 8 ∨ field (c + fDisp d q) 12 4 = 10) ∧
    field (c + fDisp d q) 9 1 = c / 512 % 2 ∧ field (c + fDisp d q) 3 1 = c / 8 % 2 ∧
    d5 (c + fDisp d q) = d ∧ q6 (c + fDisp d q) = q := by
  have hs : c = 32768 + c / 512 % 2 * 512 + c / 8 % 2 * 8 := by omega
  have hu : q.toNat / 32 < 2 := by omega
  have hv : q.toNat / 8 % 4 < 4 := Nat.mod_lt _ (by decide)
  have hx : q.toNat % 8 < 8 := Nat.mod_lt _ (by decide)
  have hn : c + fDisp d q < 65536 := by simp only [fDisp]; omega
  obtain ⟨h8192, h4096, h1024, h512, h16, h8, h1⟩ := dispWord_quotients
    (Nat.mod_lt _ (by decide)) (Nat.mod_lt _ (by decide)) d.isLt hv hx (congrArg (· + fDisp d q) hs)
  refine ⟨Nat.mod_eq_of_lt hn, ?_, ?_, ?_, Reg.at_eq ?_, ofNat_eq_of_toNat ?_⟩ <;>
    simp only [field, Nat.reducePow, Nat.div_one, h8192, h4096, h1024, h512, h16, h8, h1]
  all_goals
    clear hs hn h8192 h4096 h1024 h512 h16 h8 h1
    omega

theorem fAbs22_fields (hc : c % 512 < 16 ∧ c % 2 = 0) (hl : c < 65536) (k : BitVec 22) :
    (c + fAbs22 k) % 65536 = c + fAbs22 k ∧
    (∀ lo len, 9 ≤ lo → field (c + fAbs22 k) lo len = c / 2 ^ lo % 2 ^ len) ∧
    (field (c + fAbs22 k) 0 4 = c % 16 ∨ field (c + fAbs22 k) 0 4 = c % 16 + 1) ∧
    k22 (c + fAbs22 k) (abs22Word2 k).toNat = k := by
  have hx : c % 512 + fAbs22 k < 512 := by simp only [fAbs22]; omega
  refine ⟨by omega, field_add_of_lt (k := 9) (by omega), ?_, ofNat_eq_of_toNat ?_⟩ <;>
    simp only [field, fAbs22, abs22Word2, BitVec.toNat_ofNat, Nat.reducePow, Nat.div_one] <;> omega

/-- The flag number of `BSET` and `BCLR`, bits 6:4 (R120). -/
theorem flagNumber_fields (hc : c % 128 = 8) (hl : c < 65536) (i : Fin 8) :
    (c + i.val * 16) % 65536 = c + i.val * 16 ∧
    (∀ lo len, 7 ≤ lo → field (c + i.val * 16) lo len = c / 2 ^ lo % 2 ^ len) ∧
    field (c + i.val * 16) 0 4 = 8 ∧ s3 (c + i.val * 16) = i := by
  refine ⟨by omega, field_add_of_lt (k := 7) (by omega), ?_, bitAt_eq ?_⟩ <;>
    simp only [field, Nat.reducePow, Nat.div_one] <;> omega

/-- The key of `DES`, bits 7:4 (R122). -/
theorem desKey_fields (hc : c % 256 = 11) (hl : c < 65536) (k : BitVec 4) :
    (c + k.toNat * 16) % 65536 = c + k.toNat * 16 ∧
    (∀ lo len, 8 ≤ lo → field (c + k.toNat * 16) lo len = c / 2 ^ lo % 2 ^ len) ∧
    field (c + k.toNat * 16) 0 4 = 11 ∧ field (c + k.toNat * 16) 4 4 = k.toNat := by
  refine ⟨by omega, field_add_of_lt (k := 8) (by omega), ?_, ?_⟩ <;>
    simp only [field, Nat.reducePow, Nat.div_one] <;> omega

/-- The offset of `RJMP` and `RCALL`, bits 11:0 (R118). -/
theorem relOffset_fields (hc : c % 4096 = 0) (hl : c < 65536) (k : BitVec 12) :
    (c + k.toNat) % 65536 = c + k.toNat ∧
    (∀ lo len, 12 ≤ lo → field (c + k.toNat) lo len = c / 2 ^ lo % 2 ^ len) ∧ k12 (c + k.toNat) = k := by
  refine ⟨by omega, field_add_of_lt (k := 12) (by omega), ofNat_eq_of_toNat ?_⟩
  simp only [field, Nat.reducePow, Nat.div_one]
  omega

end fields

end Sys2Proof
end

section
/-! PROOFS. What an answer of the decoder says about the word (spec/30 R101 to R103, R125 to R127, R131): one pass over the
encoding map, branch by branch, for both kinds of answer. -/

namespace Sys2Proof

open Machine

/-! ### Sizes and sets on the word's value -/

/-- R103 on the value of the first word. -/
abbrev TwoWordValue (n : Nat) : Prop := n / 1024 = 36 ∧ n % 16 = 0 ∨ n / 512 = 74 ∧ n / 4 % 4 = 3

theorem wordSize_eq_two_iff (w : Word) : wordSize w = 2 ↔ TwoWordValue w.toNat := by
  have h1024 : w.toNat / 1024 % 64 = w.toNat / 1024 := by omega
  have h512 : w.toNat / 512 % 128 = w.toNat / 512 := by omega
  simp [wordSize, field, h1024, h512, TwoWordValue, or_iff_not_imp_left]

/-- R131 on the value of the word: the sets that hold for either `HAS_RMW`. -/
abbrev UnrecognisedValue (n : Nat) : Prop :=
  1 ≤ n ∧ n ≤ 0x00FF ∨
  (n / 512 = 72 ∨ n / 512 = 73) ∧ (n % 16 = 3 ∨ n % 16 = 8 ∨ n % 16 = 11) ∨
  n / 512 = 74 ∧ n % 16 = 4 ∨
  (n = 0x9528 ∨ n = 0x9538 ∨ n = 0x9548 ∨ n = 0x9558 ∨ n = 0x9568 ∨ n = 0x9578 ∨ n = 0x95B8) ∨
  n / 512 = 74 ∧ n % 16 = 9 ∧ ¬(n = 0x9409 ∨ n = 0x9419 ∨ n = 0x9509 ∨ n = 0x9519) ∨
  n / 256 = 0x95 ∧ n % 16 = 11 ∨
  n / 2048 = 31 ∧ n / 8 % 2 = 1

/-- R131 on the value of the word: the set added without `HAS_RMW`. -/
abbrev RmwValue (n : Nat) : Prop := n / 512 = 73 ∧ 4 ≤ n % 16 ∧ n % 16 ≤ 7

theorem unrecognisedWord_iff (hasRmw : Bool) (w : Word) :
    unrecognisedWord hasRmw w = true ↔ UnrecognisedValue w.toNat ∨ hasRmw = false ∧ RmwValue w.toNat := by
  simp [unrecognisedWord, RmwValue, and_assoc, or_assoc, or_comm (a := hasRmw = false ∧ _)]

/-! ### What an answer means -/

/-- No instruction: the word is unrecognised. An instruction: the word is recognised, and the instruction is one that an
encoding names, is no other name of one, and encodes to the words it was read from. -/
def Justified (hasRmw : Bool) (w w2 : Word) : Option Instr → Prop
  | none => unrecognisedWord hasRmw w = true
  | some i =>
    unrecognisedWord hasRmw w = false ∧
      i.wellFormed = true ∧ i.base = i ∧ encode i = if wordSize w = 2 then [w, w2] else [w]

namespace Justified

variable {hasRmw : Bool} {w w2 : Word}

theorem none (h : UnrecognisedValue w.toNat) : Justified hasRmw w w2 none :=
  (unrecognisedWord_iff hasRmw w).mpr (.inl h)

theorem noRmw (hr : ¬hasRmw = true) (h : RmwValue w.toNat) : Justified hasRmw w w2 Option.none :=
  (unrecognisedWord_iff hasRmw w).mpr (.inr ⟨Bool.eq_false_of_not_eq_true hr, h⟩)

theorem recognised (h : ¬UnrecognisedValue w.toNat) (hr : hasRmw = true ∨ ¬RmwValue w.toNat) :
    unrecognisedWord hasRmw w = false := by
  refine Bool.eq_false_of_not_eq_true fun hu => ?_
  rcases (unrecognisedWord_iff hasRmw w).mp hu with listed | ⟨hfalse, added⟩
  · exact h listed
  · exact hr.elim (by simp [hfalse]) (· added)

section some

variable {i : Instr} {m : Nat} (hw : i.wellFormed = true) (hb : i.base = i)
include hw hb

/-- A one-word instruction, `m` the number its row and operands make; the word may need `HAS_RMW`. -/
theorem rmw (he : encode i = [BitVec.ofNat 16 m]) (hr : hasRmw = true ∨ ¬RmwValue w.toNat)
    (h : m = w.toNat ∧ ¬UnrecognisedValue w.toNat ∧ ¬TwoWordValue w.toNat) : Justified hasRmw w w2 (some i) := by
  obtain ⟨hm, hu, hs⟩ := h
  refine ⟨recognised hu hr, hw, hb, ?_⟩
  rw [if_neg (mt (wordSize_eq_two_iff w).mp hs), he, ofNat_eq_of_toNat hm]

theorem one (he : encode i = [BitVec.ofNat 16 m])
    (h : m = w.toNat ∧ ¬UnrecognisedValue w.toNat ∧ ¬RmwValue w.toNat ∧ ¬TwoWordValue w.toNat) :
    Justified hasRmw w w2 (some i) := by
  obtain ⟨hm, hu, hr, hs⟩ := h
  exact rmw hw hb he (.inr hr) ⟨hm, hu, hs⟩

/-- A one-word instruction without operands. -/
theorem fixed {v : Word} (he : encode i = [v])
    (h : v.toNat = w.toNat ∧ ¬UnrecognisedValue w.toNat ∧ ¬RmwValue w.toNat ∧ ¬TwoWordValue w.toNat) :
    Justified hasRmw w w2 (some i) :=
  one hw hb (by rw [he, BitVec.ofNat_toNat, BitVec.setWidth_eq]) h

theorem two {v : Word} (he : encode i = [BitVec.ofNat 16 m, v]) (hv : v = w2)
    (h : m = w.toNat ∧ ¬UnrecognisedValue w.toNat ∧ ¬RmwValue w.toNat ∧ TwoWordValue w.toNat) :
    Justified hasRmw w w2 (some i) := by
  obtain ⟨hm, hu, hr, hs⟩ := h
  refine ⟨recognised hu (.inr hr), hw, hb, ?_⟩
  rw [if_pos ((wordSize_eq_two_iff w).mpr hs), he, ofNat_eq_of_toNat hm, hv]

end some

end Justified

/-! ### The map, page by page -/

section map

variable {hasRmw : Bool} {w w2 : Word}

theorem decodeNibble0_justified (h : field w.toNat 12 4 = 0) : Justified hasRmw w w2 (decodeNibble0 w.toNat) := by
  fun_cases decodeNibble0 w.toNat <;> simp only [field, Nat.reducePow, Nat.div_one, imp_false] at *
  case case1 => exact .one (m := 0) rfl rfl rfl (by omega) -- NOP
  case case2 => exact .none (.inl (by omega)) -- the other words 0000 0000 xxxx xxxx
  case case3 => -- MOVW
    exact .one (by simp [Instr.wellFormed, even_dPair, even_rPair]) rfl rfl (by rw [fMovw_read]; omega)
  case case4 => -- MULS
    exact .one (by simp [Instr.wellFormed, upper_d4, upper_r4]) rfl rfl (by rw [fRd4Rr4_read]; omega)
  case case5 | case6 | case7 | case8 => -- MULSU, FMUL, FMULS, FMULSU
    exact .one (by simp [Instr.wellFormed, middle_d3, middle_r3]) rfl rfl (by rw [fRd3Rr3_read]; omega)
  all_goals exact .one rfl rfl rfl (by rw [fRdRr_read]; omega)

theorem decodeNibble1_justified (h : field w.toNat 12 4 = 1) : Justified hasRmw w w2 (decodeNibble1 w.toNat) := by
  fun_cases decodeNibble1 w.toNat <;> simp only [field, Nat.reducePow, imp_false] at *
  all_goals exact .one rfl rfl rfl (by rw [fRdRr_read]; omega)

theorem decodeNibble2_justified (h : field w.toNat 12 4 = 2) : Justified hasRmw w w2 (decodeNibble2 w.toNat) := by
  fun_cases decodeNibble2 w.toNat <;> simp only [field, Nat.reducePow, imp_false] at *
  all_goals exact .one rfl rfl rfl (by rw [fRdRr_read]; omega)

theorem decodeDisp_justified (h : field w.toNat 12 4 = 8 ∨ field w.toNat 12 4 = 10) :
    Justified hasRmw w w2 (decodeDisp w.toNat) := by
  fun_cases decodeDisp w.toNat <;> simp only [field, Nat.reducePow, imp_false] at *
  all_goals exact .one rfl rfl rfl (by rw [fDisp_read]; omega)

theorem decodeLoad_justified (h : w.toNat / 512 = 72) : Justified hasRmw w w2 (decodeLoad w.toNat w2.toNat) := by
  fun_cases decodeLoad w.toNat w2.toNat <;> simp only [field, Nat.reducePow, Nat.div_one, imp_false] at *
  case case1 => exact .two rfl rfl rfl (ofNat_eq_of_toNat rfl) (by rw [fRd_read]; omega) -- LDS
  case case14 => exact .none (.inr (.inl ⟨.inl h, by omega⟩))
  all_goals exact .one rfl rfl rfl (by rw [fRd_read]; omega)

theorem decodeStore_justified (h : w.toNat / 512 = 73) :
    Justified hasRmw w w2 (decodeStore hasRmw w.toNat w2.toNat) := by
  fun_cases decodeStore hasRmw w.toNat w2.toNat <;>
    simp only [field, Nat.reducePow, Nat.div_one, imp_false] at *
  case case1 => exact .two rfl rfl rfl (ofNat_eq_of_toNat rfl) (by rw [fRd_read]; omega) -- STS
  case case4 hr _ | case6 hr _ | case8 hr _ | case10 hr _ => -- XCH, LAS, LAC, LAT
    exact .rmw rfl rfl rfl (.inl hr) (by rw [fRd_read]; omega)
  case case5 hr _ | case7 hr _ | case9 hr _ | case11 hr _ => exact .noRmw hr (by omega)
  case case18 => exact .none (.inr (.inl ⟨.inr h, by omega⟩))
  all_goals exact .one rfl rfl rfl (by rw [fRd_read]; omega)

theorem decodeFixed8_justified (h : w.toNat / 512 = 74) (h0 : w.toNat % 16 = 8) :
    Justified hasRmw w w2 (decodeFixed8 w.toNat) := by
  fun_cases decodeFixed8 w.toNat <;> simp only [field, Nat.reducePow, imp_false] at *
  case case1 | case2 => exact .one rfl rfl rfl (by rw [s3_read]; omega) -- BSET, BCLR
  case case12 => exact .none (.inr (.inr (.inr (.inl (by omega)))))
  all_goals exact .fixed rfl rfl rfl (by simp only [BitVec.reduceToNat]; omega)

theorem decodeFixed9_justified (h : w.toNat / 512 = 74) (h0 : w.toNat % 16 = 9) :
    Justified hasRmw w w2 (decodeFixed9 w.toNat) := by
  fun_cases decodeFixed9 w.toNat <;> simp only [field, Nat.reducePow, imp_false] at *
  case case5 => exact .none (.inr (.inr (.inr (.inr (.inl ⟨h, h0, by omega⟩)))))
  all_goals exact .fixed rfl rfl rfl (by simp only [BitVec.reduceToNat]; omega)

theorem decodeOneOp_justified (h : w.toNat / 512 = 74) : Justified hasRmw w w2 (decodeOneOp w.toNat w2.toNat) := by
  fun_cases decodeOneOp w.toNat w2.toNat <;> simp only [field, Nat.reducePow, Nat.div_one, imp_false] at *
  case case8 h0 => exact decodeFixed8_justified h h0
  case case9 h0 => exact decodeFixed9_justified h h0
  case case11 => exact .one rfl rfl rfl (by rw [BitVec.toNat_ofNat]; omega) -- DES
  case case12 => exact .none (.inr (.inr (.inr (.inr (.inr (.inl (by omega))))))) -- DES with bit 8 set
  case case17 => exact .none (.inr (.inr (.inl ⟨h, by omega⟩)))
  case case13 | case14 | case15 | case16 => -- JMP, CALL
    exact .two rfl rfl rfl (abs22Word2_read _ w2) (by rw [fAbs22_read]; omega)
  all_goals exact .one rfl rfl rfl (by rw [fRd_read]; omega)

theorem decodeNibble9_justified (h : field w.toNat 12 4 = 9) :
    Justified hasRmw w w2 (decodeNibble9 hasRmw w.toNat w2.toNat) := by
  fun_cases decodeNibble9 hasRmw w.toNat w2.toNat <;> simp only [field, Nat.reducePow, imp_false] at *
  case case1 => exact decodeLoad_justified (by omega)
  case case2 => exact decodeStore_justified (by omega)
  case case3 => exact decodeOneOp_justified (by omega)
  case case4 | case5 => exact .one (wordPair_dWord _) rfl rfl (by rw [fPairK6_read]; omega) -- ADIW, SBIW
  case case10 => exact .one rfl rfl rfl (by rw [fRdRr_read]; omega) -- MUL
  all_goals exact .one rfl rfl rfl (by rw [fIoB_read]; omega)

theorem decodeNibble15_justified (h : field w.toNat 12 4 = 15) : Justified hasRmw w w2 (decodeNibble15 w.toNat) := by
  fun_cases decodeNibble15 w.toNat <;> simp only [field, Nat.reducePow, imp_false] at *
  case case1 | case2 => exact .one rfl rfl rfl (by rw [fBr_read]; omega) -- BRBS, BRBC
  case case7 => exact .none (.inr (.inr (.inr (.inr (.inr (.inr (by omega))))))) -- bit 3 set
  all_goals exact .one rfl rfl rfl (by rw [fRdB_read]; omega)

end map

/-- Every answer of the decoder is justified. -/
theorem decodeWords_justified (hasRmw : Bool) (w w2 : Word) : Justified hasRmw w w2 (decodeWords hasRmw w w2) := by
  fun_cases decodeWords hasRmw w w2
  case case1 n h => exact decodeNibble0_justified h
  case case2 n h => exact decodeNibble1_justified h
  case case3 n h => exact decodeNibble2_justified h
  case case9 n h => exact decodeDisp_justified (.inl h)
  case case10 n h => exact decodeNibble9_justified h
  case case11 n h => exact decodeDisp_justified (.inr h)
  case case17 =>
    refine decodeNibble15_justified ?_
    simp only [field, Nat.reducePow, imp_false] at *
    omega
  all_goals simp only [field, Nat.reducePow] at *
  case case12 | case13 => exact .one rfl rfl rfl (by rw [fIoRd_read]; omega)
  case case14 | case15 => exact .one rfl rfl rfl (by rw [k12_read]; omega)
  all_goals exact .one (upper_d4 _) rfl rfl (by rw [fRdK8_read]; omega)

/-- Settles O40: the answer is justified. -/
theorem encodeOfDecode : Obligations.EncodeOfDecode := by
  intro hasRmw w w2 i h
  have justified := decodeWords_justified hasRmw w w2
  rw [h] at justified
  obtain ⟨-, hw, hb, he⟩ := justified
  exact ⟨hw, hb, he⟩

end Sys2Proof
end

section
/-! PROOFS. Decoding what was encoded (spec/30 R101, R141): the words of a decodable row give the instruction back, and
another name of an instruction has the words of its base. With the answers justified above, this settles the statements. -/

namespace Sys2Proof

open Machine

/-! ### Other names (R141) -/

theorem Instr.base_base (i : Instr) : i.base.base = i.base := by
  cases i <;> rfl

theorem Instr.wellFormed_base (i : Instr) : i.base.wellFormed = i.wellFormed := by
  cases i <;> rfl

/-- `LD` and `ST` through `Y` and `Z` are written in format `RD5`; it gives the word of the displacement 0. -/
theorem fDisp_zero (d : Reg) : fDisp d 0 = fRd d := by
  simp [fDisp, fRd]

theorem encode_base (i : Instr) : encode i.base = encode i := by
  cases i with
  | ldY d | ldZ d | stY d | stZ d => exact congrArg (fun x => [BitVec.ofNat 16 (_ + x)]) (fDisp_zero d)
  | _ => rfl

/-! ### The first word of a row -/

/-- The displacement forms fill both pages of their top nibble (R125). -/
theorem decodeWords_disp {hasRmw : Bool} {w w2 : Word} (h : field w.toNat 12 4 = 8 ∨ field w.toNat 12 4 = 10) :
    decodeWords hasRmw w w2 = decodeDisp w.toNat := by
  rcases h with h | h <;> simp only [decodeWords, h]

/-- The decoder gives a row back from the first word and, where there is one, the second word of its encoding. -/
theorem decodeWords_encode {i : Instr} (hw : i.wellFormed = true) (hb : i.base = i) :
    decodeWords true ((encode i).headD 0) ((encode i).getD 1 0) = some i := by
  cases i with
  -- another name of an instruction is not its own base
  | tst | clr | sbr | cbr | lsl | rol | ser | ldY | ldZ | stY | stZ | sec | sez | sen | sev | ses | seh | set_ | sei | clc
  | clz | cln | clv | cls | clh | clt | cli | brcs | brlo | brcc | brsh | breq | brne | brmi | brpl | brvs | brvc | brlt
  | brge | brhs | brhc | brts | brtc | brie | brid => cases hb
  | nop | ijmp | eijmp | icall | eicall | ret | reti | lpm | elpm | sleep | wdr | break_ | spm | spmZInc => rfl
  | add | adc | sub | sbc | and | or | eor | cp | cpc | cpse | mov =>
    simp [encode, decodeWords, decodeNibble0, decodeNibble1, decodeNibble2, fRdRr_fields]
  | mul d r =>
    rcases mul_group d r with h | h <;> simp [encode, decodeWords, decodeNibble9, fRdRr_fields, h]
  | muls =>
    simp only [Instr.wellFormed, Bool.and_eq_true, Reg.upper_iff] at hw
    simp [encode, decodeWords, decodeNibble0, fRd4Rr4_fields, hw]
  | mulsu | fmul | fmuls | fmulsu =>
    simp only [Instr.wellFormed, Bool.and_eq_true, Reg.middle_iff] at hw
    simp [encode, decodeWords, decodeNibble0, fRd3Rr3_fields, hw]
  | movw =>
    simp only [Instr.wellFormed, Bool.and_eq_true, Reg.even_iff] at hw
    simp [encode, decodeWords, decodeNibble0, fMovw_fields, hw]
  | cpi | sbci | subi | ori | andi | ldi =>
    simp only [Instr.wellFormed, Reg.upper_iff] at hw
    simp [encode, decodeWords, fRdK8_fields, hw]
  | adiw | sbiw =>
    simp only [Instr.wellFormed, Reg.wordPair_iff] at hw
    simp [encode, decodeWords, decodeNibble9, fPairK6_fields, hw]
  | com | neg | inc | dec | lsr | ror | asr | swap =>
    simp [encode, decodeWords, decodeNibble9, decodeOneOp, fRd_fields]
  | bset | bclr => simp [encode, decodeWords, decodeNibble9, decodeOneOp, decodeFixed8, flagNumber_fields]
  | des => simp [encode, decodeWords, decodeNibble9, decodeOneOp, desKey_fields]
  | sbi | cbi | sbic | sbis => simp [encode, decodeWords, decodeNibble9, fIoB_fields]
  | rjmp | rcall => simp [encode, decodeWords, relOffset_fields]
  | jmp k =>
    obtain ⟨-, -, h | h, -⟩ := fAbs22_fields (c := 0x940C) (by decide) (by decide) k <;>
      simp [encode, decodeWords, decodeNibble9, decodeOneOp, fAbs22_fields, h]
  | call k =>
    obtain ⟨-, -, h | h, -⟩ := fAbs22_fields (c := 0x940E) (by decide) (by decide) k <;>
      simp [encode, decodeWords, decodeNibble9, decodeOneOp, fAbs22_fields, h]
  | brbs | brbc => simp [encode, decodeWords, decodeNibble15, fBr_fields]
  | bst | bld | sbrc | sbrs => simp [encode, decodeWords, decodeNibble15, fRdB_fields]
  | in_ | out => simp [encode, decodeWords, fIoRd_fields]
  | lddY | lddZ | stdY | stdZ =>
    rw [decodeWords_disp (by simp [encode, fDisp_fields])]
    simp [encode, decodeDisp, fDisp_fields]
  | lds | ldX | ldXInc | ldXDec | ldYInc | ldYDec | ldZInc | ldZDec | lpmZ | lpmZInc | elpmZ | elpmZInc | pop =>
    simp [encode, decodeWords, decodeNibble9, decodeLoad, fRd_fields]
  | sts | stX | stXInc | stXDec | stYInc | stYDec | stZInc | stZDec | push | xch | las | lac | lat =>
    simp [encode, decodeWords, decodeNibble9, decodeStore, fRd_fields]

/-! ### Lists of words -/

/-- R103: the encoding is one word or two, by the size its first word announces. -/
theorem encode_eq_words {i : Instr} (hw : i.wellFormed = true) (hb : i.base = i) :
    ∃ w w2, decodeWords true w w2 = some i ∧
      (wordSize w = 2 ∧ encode i = [w, w2] ∨ wordSize w ≠ 2 ∧ encode i = [w] ∧ w2 = 0) := by
  have hd := decodeWords_encode hw hb
  obtain ⟨-, -, he⟩ := encodeOfDecode _ _ _ _ hd
  refine ⟨_, _, hd, ?_⟩
  by_cases hs : wordSize ((encode i).headD 0) = 2
  · exact .inl ⟨hs, by rwa [if_pos hs] at he⟩
  · rw [if_neg hs] at he
    refine .inr ⟨hs, he, ?_⟩
    rw [he, List.getD_cons_succ, List.getD_nil]

theorem decode_encode_append {i : Instr} (hw : i.wellFormed = true) (hb : i.base = i) (rest : List Word) :
    decode true (encode i ++ rest) = .ok (i, rest) := by
  obtain ⟨w, w2, hd, ⟨hs, he⟩ | ⟨hs, he, rfl⟩⟩ := encode_eq_words hw hb
  · simp only [he, List.cons_append, List.nil_append, decode, if_pos hs, hd]
  · simp only [he, List.cons_append, List.nil_append, decode, if_neg hs, hd]

/-- Settles O39: another name has the words of its base, and those give the base back. -/
theorem decodeOfEncode : Obligations.DecodeOfEncode := by
  intro i rest hw
  rw [← encode_base]
  exact decode_encode_append (i.wellFormed_base.trans hw) i.base_base rest

/-- R101: two instructions of the decoder do not share their words. -/
theorem encode_injective {i j : Instr} (hi : i.wellFormed = true) (hj : j.wellFormed = true) (hib : i.base = i)
    (hjb : j.base = j) (h : encode i = encode j) : i = j := by
  have di := decode_encode_append hi hib []
  rw [h, decode_encode_append hj hjb []] at di
  cases di
  rfl

/-! ### Unrecognised words (R130, R131) -/

theorem decodeWords_eq_none_iff (hasRmw : Bool) (w w2 : Word) :
    decodeWords hasRmw w w2 = none ↔ unrecognisedWord hasRmw w = true := by
  have justified := decodeWords_justified hasRmw w w2
  cases hd : decodeWords hasRmw w w2 <;> rw [hd] at justified
  case none => exact iff_of_true rfl justified
  case some =>
    obtain ⟨recognised, -⟩ := justified
    simp [recognised]

/-- A word recognised without `HAS_RMW` is recognised under either setting. -/
theorem decodeWords_isSome (hasRmw : Bool) {w : Word} (w2 : Word) (h : unrecognisedWord false w = false) :
    ∃ i, decodeWords hasRmw w w2 = some i := by
  refine Option.ne_none_iff_exists'.mp fun hnone => ?_
  have hu := (decodeWords_eq_none_iff hasRmw w w2).mp hnone
  have hu' : unrecognisedWord false w = true :=
    (unrecognisedWord_iff false w).mpr (((unrecognisedWord_iff hasRmw w).mp hu).imp_right fun ⟨_, hr⟩ => ⟨rfl, hr⟩)
  rw [h] at hu'
  cases hu'

/-- Settles O41: the decoder answers nothing on the listed sets only; under both settings of `HAS_RMW` the answer encodes to
the words read, and no two instructions share those. -/
theorem unrecognisedWordsAreTheListedSets : Obligations.UnrecognisedWordsAreTheListedSets := by
  intro hasRmw w w2
  refine ⟨decodeWords_eq_none_iff hasRmw w w2, fun h => ?_⟩
  obtain ⟨i, hi⟩ := decodeWords_isSome hasRmw w2 h
  obtain ⟨j, hj⟩ := decodeWords_isSome true w2 h
  obtain ⟨hiw, hib, hie⟩ := encodeOfDecode _ _ _ _ hi
  obtain ⟨hjw, hjb, hje⟩ := encodeOfDecode _ _ _ _ hj
  rw [hi, hj, encode_injective hiw hjw hib hjb (hie.trans hje.symm)]

/-! ### Meanings and spelled words -/

/-- Settles O37: the meaning of another name is by definition that of its base; a decodable row is its own base. -/
theorem otherNamesMeanTheirBase : Obligations.OtherNamesMeanTheirBase := by
  intro i s
  cases i <;> rfl

/-- Settles O38: the decoder runs on the eleven words. -/
theorem spelledWordsDecode : Obligations.SpelledWordsDecode := by
  unfold Obligations.SpelledWordsDecode
  decide

end Sys2Proof
end

section
/-! PROOFS. What every instruction adds to `pc` and the cycles (spec/40 R155, R156; spec/70 R580): one lemma for the
instructions that do not transfer control, one for all. -/

namespace Sys2Proof.Machine

/-! ### Instructions that do not transfer control -/

/-- From `s` to `t` an instruction of `size` words advanced past itself in `n` cycles. -/
structure Advances (size n : Nat) (s t : State) : Prop where
  pc : t.pc = s.pc + BitVec.ofNat 16 size
  cycles : t.cycles = s.cycles + n

namespace Advances

variable {s t u : State} {n : Nat}

/-- Data accesses move neither `pc` nor the cycles, so the last update of an instruction decides both. -/
theorem of_retire {size : Nat} {target : Word} (data : DataStep s u) (hpc : target = s.pc + BitVec.ofNat 16 size)
    (h : (.next (u.retire target n) : Res State) = .next t) : Advances size n s t := by
  cases h
  exact ⟨hpc, congrArg (· + n) data.cycles⟩

theorem of_retireNext (data : DataStep s u) (h : (.next (u.retireNext n) : Res State) = .next t) : Advances 1 n s t :=
  of_retire data (congrArg (· + 1) data.pc) h

theorem of_loadIndirect {p : Pointer} {f : Form} {d : Reg} (h : loadIndirect s p f d = .next t) : Advances 1 2 s t := by
  unfold loadIndirect at h
  split at h
  · cases h
  · obtain ⟨⟨v, s1⟩, hr, h⟩ := Res.bind_eq_next.mp h
    exact of_retireNext
      ((((DataStep.refl.then_updateBefore p _ f).then_memRead hr).then_updateAfter p _ f).then_setReg d v) h

theorem of_storeIndirect {p : Pointer} {f : Form} {r : Reg} (h : storeIndirect s p f r = .next t) :
    Advances 1 2 s t := by
  unfold storeIndirect at h
  split at h
  · cases h
  · obtain ⟨s1, hw, h⟩ := Res.bind_eq_next.mp h
    exact of_retireNext (((DataStep.refl.then_updateBefore p _ f).then_memWrite hw).then_updateAfter p _ f) h

theorem of_loadProgram {f : Form} {d : Reg} (h : loadProgram s f d = .next t) : Advances 1 3 s t := by
  unfold loadProgram at h
  split at h
  · cases h
  · obtain ⟨v, -, h⟩ := Res.bind_eq_next.mp h
    exact of_retireNext ((DataStep.refl.then_updateAfter .z _ f).then_setReg d v) h

theorem of_exchangeZ {d : Reg} {f : Byte → Byte → Byte} (h : exchangeZ s d f = .next t) : Advances 1 2 s t := by
  obtain ⟨⟨old, s1⟩, hr, h⟩ := Res.bind_eq_next.mp h
  obtain ⟨s2, hw, h⟩ := Res.bind_eq_next.mp h
  exact of_retireNext (((DataStep.refl.then_memRead hr).then_memWrite hw).then_setReg d old) h

theorem of_modifyIo {a : BitVec 5} {f : Byte → Byte} (h : modifyIo s a f = .next t) : Advances 1 2 s t := by
  obtain ⟨⟨v, s1⟩, hr, h⟩ := Res.bind_eq_next.mp h
  obtain ⟨s2, hw, h⟩ := Res.bind_eq_next.mp h
  exact of_retireNext ((DataStep.refl.then_memRead hr).then_memWrite hw) h

theorem of_execLds {d : Reg} {k : Word} (h : execLds d k s = .next t) : Advances 2 2 s t := by
  obtain ⟨⟨v, s1⟩, hr, h⟩ := Res.bind_eq_next.mp h
  exact of_retire ((DataStep.refl.then_memRead hr).then_setReg d v) rfl h

theorem of_execSts {k : Word} {r : Reg} (h : execSts k r s = .next t) : Advances 2 2 s t := by
  obtain ⟨s1, hw, h⟩ := Res.bind_eq_next.mp h
  exact of_retire (DataStep.refl.then_memWrite hw) rfl h

theorem of_execIn {d : Reg} {a : BitVec 6} (h : execIn d a s = .next t) : Advances 1 1 s t := by
  obtain ⟨⟨v, s1⟩, hr, h⟩ := Res.bind_eq_next.mp h
  exact of_retireNext ((DataStep.refl.then_memRead hr).then_setReg d v) h

theorem of_execOut {a : BitVec 6} {r : Reg} (h : execOut a r s = .next t) : Advances 1 1 s t := by
  obtain ⟨s1, hw, h⟩ := Res.bind_eq_next.mp h
  exact of_retireNext (DataStep.refl.then_memWrite hw) h

theorem of_execPush {r : Reg} (h : execPush r s = .next t) : Advances 1 2 s t := by
  obtain ⟨s1, hw, h⟩ := Res.bind_eq_next.mp h
  exact of_retireNext ((DataStep.refl.then_memWrite hw).then_setSp _) h

theorem of_execPop {d : Reg} (h : execPop d s = .next t) : Advances 1 2 s t := by
  obtain ⟨⟨v, s1⟩, hr, h⟩ := Res.bind_eq_next.mp h
  exact of_retireNext (((DataStep.refl.then_setSp _).then_memRead hr).then_setReg d v) h

theorem of_execSleep (h : execSleep s = .next t) : Advances 1 1 s t := by
  cases h
  exact ⟨rfl, rfl⟩

/-- R155, R580: by the shape of its meaning, an instruction that does not transfer control advances past its own words, in the
cycles of the table. -/
theorem of_exec {i : Instr} (hi : transfersControl i = false) (h : exec i s = .next t) :
    Advances (encode i).length (minCycles i) s t := by
  cases i with dsimp only [exec] at h
  | add | adc | sub | subi | sbc | sbci | and | andi | or | ori | eor | com | neg | inc | dec | tst | clr | sbr | cbr
  | lsl | rol | lsr | ror | asr => exact of_retireNext ((DataStep.refl.then_setFlags _).then_setReg _ _) h
  | cp | cpc | cpi | bset | bclr | sec | sez | sen | sev | ses | seh | set_ | sei | clc | clz | cln | clv | cls | clh
  | clt | cli | bst => exact of_retireNext (DataStep.refl.then_setFlags _) h
  | swap | bld | mov | ldi | ser => exact of_retireNext (DataStep.refl.then_setReg _ _) h
  | adiw | sbiw | mul | muls | mulsu | fmul | fmuls | fmulsu =>
    exact of_retireNext ((DataStep.refl.then_setFlags _).then_setPair _ _) h
  | movw => exact of_retireNext (DataStep.refl.then_setPair _ _) h
  | sbi | cbi => exact of_modifyIo h
  | eijmp | eicall | nop | des | spm | spmZInc => exact of_retireNext .refl h
  | lds => exact of_execLds h
  | sts => exact of_execSts h
  | in_ => exact of_execIn h
  | out => exact of_execOut h
  | push => exact of_execPush h
  | pop => exact of_execPop h
  | ldX | ldXInc | ldXDec | ldYInc | ldYDec | lddY | ldZInc | ldZDec | lddZ => exact of_loadIndirect h
  | ldY => exact of_loadIndirect (p := .y) (f := .disp 0) h
  | ldZ => exact of_loadIndirect (p := .z) (f := .disp 0) h
  | stX | stXInc | stXDec | stYInc | stYDec | stdY | stZInc | stZDec | stdZ => exact of_storeIndirect h
  | stY => exact of_storeIndirect (p := .y) (f := .disp 0) h
  | stZ => exact of_storeIndirect (p := .z) (f := .disp 0) h
  | lpm | lpmZ | lpmZInc | elpm | elpmZ | elpmZInc => exact of_loadProgram h
  | xch | las | lac | lat => exact of_exchangeZ h
  | sleep => exact of_execSleep h
  | wdr | break_ => exact of_retireNext (DataStep.refl.then_emit _) h
  | rjmp | ijmp | jmp | rcall | icall | call | ret | reti | cpse | sbrc | sbrs | sbic | sbis | brbs | brbc | brcs | brlo
  | brcc | brsh | breq | brne | brmi | brpl | brvs | brvc | brlt | brge | brhs | brhc | brts | brtc | brie | brid =>
    cases hi

end Advances

/-- Settles O44: such an instruction `Advances`; the word 0x0000 decodes to `NOP`, whose meaning is to advance. -/
theorem straightLineAdvancesBySize : Obligations.StraightLineAdvancesBySize :=
  ⟨fun _ _ _ hi h => (Advances.of_exec hi h).pc, fun _ _ _ => ⟨rfl, rfl⟩⟩

/-! ### Instructions that transfer control -/

/-- From `s` to `t` an instruction took `least` cycles and at most `extra` more. -/
def Takes (least extra : Nat) (s t : State) : Prop := ∃ k ≤ extra, t.cycles = s.cycles + least + k

namespace Takes

variable {s t u : State} {least extra : Nat}

theorem of_retire {target : Word} {k : Nat} (hk : k ≤ extra) (data : DataStep s u)
    (h : (.next (u.retire target (least + k)) : Res State) = .next t) : Takes least extra s t := by
  cases h
  refine ⟨k, hk, ?_⟩
  rw [State.retire_cycles, data.cycles, Nat.add_assoc]

/-- The calls: the return address is pushed and `pc` goes to `target` of the state after the push. -/
theorem of_call {ret : Word} {target : State → Word}
    (h : ((pushRet s ret).bind fun s1 => .next (s1.retire (target s1) least)) = .next t) : Takes least 0 s t := by
  obtain ⟨s1, hp, h⟩ := Res.bind_eq_next.mp h
  exact of_retire (Nat.zero_le _) (.of_pushRet hp) h

theorem of_execRet (h : execRet s = .next t) : Takes 4 0 s t := by
  obtain ⟨⟨ret, s1⟩, hp, h⟩ := Res.bind_eq_next.mp h
  exact of_retire (Nat.zero_le _) (.of_popRet hp) h

theorem of_returnFromInterrupt (h : returnFromInterrupt s = .next t) : Takes 4 0 s t := by
  obtain ⟨⟨ret, s1⟩, hp, h⟩ := Res.bind_eq_next.mp h
  exact of_retire (Nat.zero_le _) (((DataStep.of_popRet hp).then_setFlags _).then_emit _) h

/-- R330: one more cycle for each word skipped, after the data accesses that precede the condition. -/
theorem of_skip {cond : Bool} (data : DataStep s u) (h : skip u cond = .next t) : Takes 1 2 s t := by
  unfold skip at h
  split at h
  · obtain ⟨wn, -, h⟩ := Res.bind_eq_next.mp h
    exact of_retire (wordSize_le_two wn) data h
  · exact of_retire (Nat.zero_le _) data h

theorem of_skipOnIo {a : Word} {cond : Byte → Bool}
    (h : ((memRead s a).bind fun (v, s1) => skip s1 (cond v)) = .next t) : Takes 1 2 s t := by
  obtain ⟨⟨v, s1⟩, hr, h⟩ := Res.bind_eq_next.mp h
  exact of_skip (DataStep.refl.then_memRead hr) h

theorem of_branch {cond : Bool} {k : BitVec 7} (h : branch s cond k = .next t) : Takes 1 1 s t := by
  unfold branch at h
  split at h
  · exact of_retire (Nat.le_refl 1) .refl h
  · exact of_retire (Nat.zero_le _) .refl h

/-- R580: every instruction takes the cycles of the table: one that does not transfer control exactly, the others by the
shape of their meaning. -/
theorem of_exec {i : Instr} (h : exec i s = .next t) : Takes (minCycles i) (extraCycles i) s t := by
  cases hi : transfersControl i with
  | false => exact ⟨0, Nat.zero_le _, (Advances.of_exec hi h).cycles⟩
  | true =>
    cases i with dsimp only [exec] at h
    | rjmp | ijmp | jmp => exact of_retire (Nat.zero_le _) .refl h
    | rcall | icall | call => exact of_call h
    | ret => exact of_execRet h
    | reti => exact of_returnFromInterrupt h
    | cpse | sbrc | sbrs => exact of_skip .refl h
    | sbic a b => exact of_skipOnIo (cond := fun v => !v.getLsbD b.val) h
    | sbis a b => exact of_skipOnIo (cond := fun v => v.getLsbD b.val) h
    | brbs | brbc | brcs | brlo | brcc | brsh | breq | brne | brmi | brpl | brvs | brvc | brlt | brge | brhs | brhc | brts
    | brtc | brie | brid => exact of_branch h
    | _ => cases hi

end Takes

/-- R156: whatever else an instruction does, it counts itself once. -/
theorem exec_instructions {i : Instr} {s t : State} (h : exec i s = .next t) : t.instructions = s.instructions + 1 := by
  by_cases hi : i = .sleep
  · subst hi
    cases h
    rfl
  · obtain ⟨data, -, -⟩ := exec_retires hi h
    exact congrArg (· + 1) data.instructions

/-- Settles O45: `exec_instructions` counts the instruction, `Takes.of_exec` its cycles. -/
theorem cyclesFollowTheTable : Obligations.CyclesFollowTheTable :=
  fun _ _ _ h => ⟨exec_instructions h, Takes.of_exec h⟩

end Sys2Proof.Machine
end

section
/-! PROOFS. The phases of a step (spec/40 R150 to R159, spec/60 R506, R535): what runs awake and asleep, what the tick phase and
service leave, and so what a step counts and how sleep is left. -/

namespace Sys2Proof.Machine

variable {s t : State}

/-! ### Fetch and decode -/

theorem fetch_fetchable (h : Fetchable s) : fetch s = .next (s.rom.get s.pc.toNat, secondWord s) := by
  obtain ⟨h1, h2⟩ := h
  rw [fetch, pmRead_in h1, Res.bind_next, secondWord]
  split
  · next hsize => rw [pmRead_in (h2 hsize), Res.bind_next]
  · rfl

/-- R154: the words at `pc` decode to `i`. -/
theorem runInstruction_of_decoded {i : Instr} (hf : Fetchable s)
    (hd : decodeWords s.cfg.hasRmw (s.rom.get s.pc.toNat) (secondWord s) = some i) : runInstruction s = exec i s := by
  rw [runInstruction, fetch_fetchable hf]
  simp only [Res.bind_next, hd]

/-- R440: the words at `pc` decode to nothing. -/
theorem runInstruction_of_unrecognised (hf : Fetchable s)
    (hd : decodeWords s.cfg.hasRmw (s.rom.get s.pc.toNat) (secondWord s) = none) :
    runInstruction s = .next (s.retireNext 1) := by
  rw [runInstruction, fetch_fetchable hf]
  simp only [Res.bind_next, hd]
  rfl

/-! ### The step, awake and asleep -/

theorem step_awake (h : s.asleep = false) : step s = (runInstruction s).bind (finishStep s.cycles) := by
  simp [step, h]

theorem finishStep_of_cycles {u : State} {start n : Nat} (h : u.cycles = start + n) :
    finishStep start u = service (tickPhase n u) := by
  rw [finishStep, h, Nat.add_sub_cancel_left]

/-- R158. -/
theorem step_asleep (h : s.asleep = true) : step s = service (tickPhase 1 { s with cycles := s.cycles + 1 }) := by
  rw [step, if_pos h, Res.bind_next]
  exact finishStep_of_cycles rfl

/-- Settles O42: fetch and decode give the instruction; its outcome goes on to `finishStep` or ends the step. -/
theorem stepRunsDecodedInstruction : Obligations.StepRunsDecodedInstruction := by
  intro s ha hf
  rw [step_awake ha]
  refine ⟨fun i hd => ?_, fun hd => ?_⟩
  · rw [runInstruction_of_decoded hf hd]
    exact ⟨fun t h => by rw [h, Res.bind_next, finishStep], fun e h => by rw [h, Res.bind_fault],
      fun e h => by rw [h, Res.bind_refused]⟩
  · rw [runInstruction_of_unrecognised hf hd, Res.bind_next]
    exact finishStep_of_cycles rfl

/-! ### The tick phase -/

/-- R157: the tick phase counts its pulses and takes the first list of events, which touch the controller and owned I/O bytes
only. -/
theorem tickPhase_same (n : Nat) (s : State) :
    tickPhase n s =
      { s with
        dm := (tickPhase n s).dm
        intPrio := (tickPhase n s).intPrio
        intPending := (tickPhase n s).intPending
        ticks := s.ticks + n
        schedule := s.schedule.tail } :=
  foldl_applyEvent_same _ _

@[simp] theorem tickPhase_pc (n : Nat) (s : State) : (tickPhase n s).pc = s.pc := by rw [tickPhase_same]
@[simp] theorem tickPhase_cycles (n : Nat) (s : State) : (tickPhase n s).cycles = s.cycles := by rw [tickPhase_same]
@[simp] theorem tickPhase_ticks (n : Nat) (s : State) : (tickPhase n s).ticks = s.ticks + n := by rw [tickPhase_same]
@[simp] theorem tickPhase_asleep (n : Nat) (s : State) : (tickPhase n s).asleep = s.asleep := by rw [tickPhase_same]
@[simp] theorem tickPhase_instructions (n : Nat) (s : State) : (tickPhase n s).instructions = s.instructions := by
  rw [tickPhase_same]

/-- With nothing on the schedule the tick phase only counts. -/
theorem tickPhase_of_no_events (n : Nat) (h : s.schedule = []) : tickPhase n s = { s with ticks := s.ticks + n } := by
  simp [tickPhase, h]

/-- R157: without a binding no I/O byte is owned, so no event reaches the data space. -/
theorem applyEvent_dm (h : s.cfg.bindings = []) (e : EnvEvent) : (applyEvent s e).dm = s.dm := by
  cases e with
  | irqRaise v => rfl
  | irqClear v => rfl
  | ioByte a v => simp [applyEvent, Config.owned, h]

theorem foldl_applyEvent_dm (h : s.cfg.bindings = []) (es : List EnvEvent) : (es.foldl applyEvent s).dm = s.dm := by
  induction es generalizing s with
  | nil => rfl
  | cons e es ih =>
    have hcfg : (applyEvent s e).cfg = s.cfg := by rw [applyEvent_same]
    exact (ih (hcfg ▸ h)).trans (applyEvent_dm h e)

theorem tickPhase_dm (n : Nat) (h : s.cfg.bindings = []) : (tickPhase n s).dm = s.dm :=
  foldl_applyEvent_dm (s := { s with ticks := s.ticks + n, schedule := s.schedule.tail }) h _

/-! ### Service -/

theorem service_idle (h : s.flags.i = false ∨ s.intPending = 0) : service s = .next s := by
  rcases service_cases s with ⟨hi, hp, -⟩ | ⟨-, e⟩
  · exact absurd h (not_or.mpr ⟨by simp [hi], hp⟩)
  · exact e

/-- R506, R583: an interrupt taken adds no cycle, tick or instruction; the core is awake at twice the vector. -/
theorem takeInterrupt_next (h : takeInterrupt s = .next t) :
    t.cycles = s.cycles ∧ t.ticks = s.ticks ∧ t.instructions = s.instructions ∧ t.asleep = false ∧
      t.pc = BitVec.ofNat 16 (2 * s.intPrio.toNat) := by
  obtain ⟨s1, hp, h⟩ := Res.bind_eq_next.mp h
  cases h
  have data := DataStep.of_pushRet hp
  exact ⟨data.cycles, data.ticks, data.instructions, rfl, rfl⟩

/-- R583: service adds no cycle, tick or instruction. -/
theorem service_counters (h : service s = .next t) :
    t.cycles = s.cycles ∧ t.ticks = s.ticks ∧ t.instructions = s.instructions := by
  rcases service_cases s with ⟨-, -, e⟩ | ⟨-, e⟩ <;> rw [e] at h
  · obtain ⟨hc, ht, hn, -, -⟩ := takeInterrupt_next h
    exact ⟨hc, ht, hn⟩
  · cases h
    exact ⟨rfl, rfl, rfl⟩

/-- The tick phase and service after `n` cycles: `n` ticks, and no further cycle or instruction. -/
theorem service_tickPhase_counters {u : State} {n : Nat} (h : service (tickPhase n u) = .next t) :
    t.cycles = u.cycles ∧ t.ticks = u.ticks + n ∧ t.instructions = u.instructions := by
  simpa using service_counters h

/-! ### What a step counts -/

/-- Settles O54: the asleep cycle, a tick phase without events, and a service that finds nothing. -/
theorem asleepStepIdles : Obligations.AsleepStepIdles := by
  intro s ha hs hidle
  have hticks := tickPhase_of_no_events (s := { s with cycles := s.cycles + 1 }) 1 hs
  rw [step_asleep ha, hticks]
  exact service_idle hidle

/-- Settles O59: a retired instruction took 1 to 4 cycles (`Retires`), an asleep step takes 1; the tick phase counts as many
ticks. -/
theorem ticksEqualCyclesOfTheStep : Obligations.TicksEqualCyclesOfTheStep := by
  intro s t hstep
  cases ha : s.asleep with
  | true =>
    rw [step_asleep ha] at hstep
    exact ⟨1, by decide, by decide, service_tickPhase_counters hstep⟩
  | false =>
    rw [step_awake ha] at hstep
    obtain ⟨u, hu, hfinish⟩ := Res.bind_eq_next.mp hstep
    obtain ⟨b, @⟨v, target, n, data, hpos, hle⟩⟩ := runInstruction_retires hu
    have hcycles : (v.retire target n).cycles = s.cycles + n := congrArg (· + n) data.cycles
    rw [finishStep_of_cycles hcycles] at hfinish
    obtain ⟨hc, ht, hn⟩ := service_tickPhase_counters hfinish
    refine ⟨n, hpos, hle, hc.trans hcycles, ht.trans ?_, hn.trans ?_⟩
    · exact congrArg (· + n) data.ticks
    · exact congrArg (· + 1) data.instructions

/-! ### Sleep -/

/-- R432, R535: an instruction other than `SLEEP` leaves the asleep flag. -/
theorem exec_asleep {i : Instr} (hi : i ≠ .sleep) (h : exec i s = .next t) : t.asleep = s.asleep := by
  obtain ⟨data, -, -⟩ := exec_retires hi h
  exact data.asleep

/-- Settles O55: `exec_asleep` for entering; an asleep step is a cycle, the tick phase and service, whose two cases
(`service_cases`) are idling and taking the interrupt. Without a binding the tick phase leaves `SREG`, so I clear excludes the
second. -/
theorem sleepIsLeftOnlyByInterrupt : Obligations.SleepIsLeftOnlyByInterrupt := by
  refine ⟨fun i s t ha h hasleep => ?_, fun s t ha hstep => ?_⟩
  · by_contra hi
    have hsame := exec_asleep hi h
    simp [ha, hasleep] at hsame
  · intro u
    have hserve : service u = .next t := (step_asleep ha).symm.trans hstep
    obtain ⟨hc, ht, hn⟩ := service_tickPhase_counters hserve
    have hasleep : u.asleep = true := (tickPhase_asleep _ _).trans ha
    have hpc : u.pc = s.pc := tickPhase_pc _ _
    refine ⟨hpc, hc, ht, hn, ?_, fun hb hi => ?_⟩
    · rcases service_cases u with ⟨hi, hp, e⟩ | ⟨hidle, e⟩ <;> rw [e] at hserve
      · obtain ⟨-, -, -, hawake, htarget⟩ := takeInterrupt_next hserve
        exact .inr ⟨hi, hp, hserve, hawake, htarget⟩
      · rw [← Host.Outcome.next.inj hserve]
        exact .inl ⟨rfl, hasleep, hpc, hidle⟩
    · have hdm : u.dm = s.dm := tickPhase_dm 1 hb
      have hflags : u.flags = s.flags := congrArg (fun m : Memory 8 => Flags.ofByte (m.get sregAddr)) hdm
      rw [service_idle (.inl (hflags ▸ hi))] at hserve
      rw [← Host.Outcome.next.inj hserve]
      exact ⟨hasleep, hdm⟩

end Sys2Proof.Machine
end

section
/-! PROOFS. The arithmetic, compare and logic instructions (spec/41): the flag formulas are the carries, the borrows and the
signed overflow; each instruction writes its result, its flags and nothing else. -/

namespace Sys2Proof.Machine

/-! ### Bits and results as naturals -/

theorem getLsbD_eq_decide_le {w : Nat} (x : BitVec w) (k : Nat) :
    x.getLsbD k = decide (2 ^ k ≤ x.toNat % 2 ^ (k + 1)) := by
  have hmod : x.toNat % 2 ^ (k + 1) = x.toNat % 2 ^ k + 2 ^ k * (x.toNat / 2 ^ k % 2) := Nat.mod_pow_succ
  have hlow : x.toNat % 2 ^ k < 2 ^ k := Nat.mod_lt _ (Nat.two_pow_pos k)
  rw [BitVec.getLsbD, Nat.testBit_eq_decide_div_mod_eq, hmod]
  rcases Nat.mod_two_eq_zero_or_one (x.toNat / 2 ^ k) with hb | hb
  · simp [hb, hlow]
  · simp [hb]

/-- The sign bit of a byte. -/
theorem getLsbD_seven (x : Byte) : x.getLsbD 7 = decide (128 ≤ x.toNat) := by
  rw [getLsbD_eq_decide_le, Nat.mod_eq_of_lt x.isLt]
  rfl

/-- The sign bit of a word. -/
theorem getLsbD_fifteen (x : Word) : x.getLsbD 15 = decide (32768 ≤ x.toNat) := by
  rw [getLsbD_eq_decide_le, Nat.mod_eq_of_lt x.isLt]
  rfl

theorem beq_eq_decide_toNat {w : Nat} (x y : BitVec w) : (x == y) = decide (x.toNat = y.toNat) := by
  simp only [BitVec.toNat_inj, beq_eq_decide]

theorem decide_eq_zero_toNat {w : Nat} (x : BitVec w) : decide (x = 0) = decide (x.toNat = 0) := by
  simp [← BitVec.toNat_inj]

/-- R227: the sum with carry-in, modulo 256. -/
theorem add_carry_eq (a b : Byte) (carry : Bool) :
    a + b + BitVec.ofNat 8 carry.toNat = BitVec.ofNat 8 (a.toNat + b.toNat + carry.toNat) := by
  apply BitVec.eq_of_toNat_eq
  simp

/-- R227: the difference with borrow-in, modulo 256. -/
theorem sub_borrow_eq (a b : Byte) (borrow : Bool) :
    a - b - BitVec.ofNat 8 borrow.toNat = BitVec.ofNat 8 (a.toNat + 512 - b.toNat - borrow.toNat) := by
  have := b.isLt
  have := borrow.toNat_lt
  apply BitVec.eq_of_toNat_eq
  simp only [BitVec.toNat_sub, BitVec.toNat_ofNat]
  omega

/-- The carry flag as the byte that `ADC`, `SBC`, `SBCI` and `CPC` take in. -/
theorem State.carry_eq (s : State) : s.carry = BitVec.ofNat 8 s.flags.c.toNat := by
  unfold State.carry
  cases s.flags.c <;> rfl

/-! ### Carries and borrows -/

/-- A sum below `2 * n` is reduced at most once. -/
theorem mod_cases {n u z : Nat} (hu : u < 2 * n) (hz : z = u % n) : (u < n ∧ z = u) ∨ (n ≤ u ∧ z + n = u) := by
  rcases Nat.lt_or_ge u n with hlt | hge
  · exact .inl ⟨hlt, hz.trans (Nat.mod_eq_of_lt hlt)⟩
  · rw [Nat.mod_eq_sub_mod hge, Nat.mod_eq_of_lt (by omega)] at hz
    exact .inr ⟨hge, by omega⟩

/-- A sum passes `2 * m` where the upper half holds both operands, or one of them and not the reduced sum. -/
theorem carry_iff {m x y z c : Nat} (hx : x < 2 * m) (hy : y < 2 * m) (hc : c ≤ 1) (hz : z = (x + y + c) % (2 * m)) :
    (m ≤ x ∧ m ≤ y) ∨ (m ≤ y ∧ z < m) ∨ (z < m ∧ m ≤ x) ↔ 2 * m ≤ x + y + c := by
  have := mod_cases (by omega) hz
  omega

/-- A sum passes `n` where the reduced sum is less than one operand with the carry. -/
theorem mod_lt_iff_carry {n x y z c : Nat} (hx : x < n) (hy : y < n) (hc : c ≤ 1) (hz : z = (x + y + c) % n) :
    z < y + c ↔ n ≤ x + y + c := by
  have := mod_cases (by omega) hz
  omega

/-- The low bits of a sum come from the low bits of the operands. -/
theorem mod_of_sum {n x y z c : Nat} (hz : z % n = (x + y + c) % n) : z % n = (x % n + y % n + c) % n :=
  hz.trans (((Nat.mod_modEq x n).add (Nat.mod_modEq y n)).add_right c).symm

/-- R200: the formula of C and H is the carry out of bit `k`. -/
theorem carry_formula {w : Nat} {a b r : BitVec w} {carry : Bool} (k : Nat)
    (hr : r.toNat % 2 ^ (k + 1) = (a.toNat + b.toNat + carry.toNat) % 2 ^ (k + 1)) :
    ((a.getLsbD k && b.getLsbD k) || (b.getLsbD k && !r.getLsbD k) || (!r.getLsbD k && a.getLsbD k)) =
      decide (2 ^ (k + 1) ≤ a.toNat % 2 ^ (k + 1) + b.toNat % 2 ^ (k + 1) + carry.toNat) := by
  have hlow := mod_of_sum hr
  simp only [getLsbD_eq_decide_le]
  rw [Nat.pow_succ'] at hlow ⊢
  have hcarry := carry_iff (Nat.mod_lt a.toNat (by positivity)) (Nat.mod_lt b.toNat (by positivity)) carry.toNat_le hlow
  simp only [← hcarry, Bool.decide_and, Bool.decide_or, ← Nat.not_le, decide_not, Bool.or_assoc]

/-- R201: the formula of C and H is the borrow out of bit `k`: the carry of adding the subtrahend back to the result. -/
theorem borrow_formula {w : Nat} {a b r : BitVec w} {borrow : Bool} (k : Nat)
    (hr : a.toNat % 2 ^ (k + 1) = (r.toNat + b.toNat + borrow.toNat) % 2 ^ (k + 1)) :
    ((!a.getLsbD k && b.getLsbD k) || (b.getLsbD k && r.getLsbD k) || (r.getLsbD k && !a.getLsbD k)) =
      decide (a.toNat % 2 ^ (k + 1) < b.toNat % 2 ^ (k + 1) + borrow.toNat) := by
  rw [decide_eq_decide.mpr (mod_lt_iff_carry (Nat.mod_lt r.toNat (by positivity)) (Nat.mod_lt b.toNat (by positivity))
    borrow.toNat_le (mod_of_sum hr)), ← carry_formula k hr]
  ac_rfl

/-! ### Signed overflow -/

/-- R200: the formula of V, by the signs of the operands. -/
theorem signed_overflow_of_add {a b r : Byte} {carry : Bool}
    (hr : r.toNat = (a.toNat + b.toNat + carry.toNat) % 256) :
    ((a.getLsbD 7 && b.getLsbD 7 && !r.getLsbD 7) || (!a.getLsbD 7 && !b.getLsbD 7 && r.getLsbD 7)) =
      decide (a.toInt + b.toInt + carry.toNat < -128 ∨ 127 < a.toInt + b.toInt + carry.toNat) := by
  have ha := a.isLt
  have hb := b.isLt
  have hc := carry.toNat_le
  simp only [getLsbD_seven, BitVec.toInt_eq_toNat_cond]
  simp only [← Bool.decide_and, ← Bool.decide_or, ← decide_not, decide_eq_decide]
  split <;> split <;> omega

/-- R201: the formula of V, by the signs of the operands. -/
theorem signed_overflow_of_sub {a b r : Byte} {borrow : Bool}
    (hr : r.toNat = (a.toNat + 512 - b.toNat - borrow.toNat) % 256) :
    ((a.getLsbD 7 && !b.getLsbD 7 && !r.getLsbD 7) || (!a.getLsbD 7 && b.getLsbD 7 && r.getLsbD 7)) =
      decide (a.toInt - b.toInt - borrow.toNat < -128 ∨ 127 < a.toInt - b.toInt - borrow.toNat) := by
  have ha := a.isLt
  have hb := b.isLt
  have hc := borrow.toNat_le
  simp only [getLsbD_seven, BitVec.toInt_eq_toNat_cond]
  simp only [← Bool.decide_and, ← Bool.decide_or, ← decide_not, decide_eq_decide]
  split <;> split <;> omega

/-! ### The flag computations -/

/-- R200: the Boolean formulas. -/
theorem addFlags_eq (f : Flags) (a b r : Byte) : addFlags f a b r =
    { f with
      h := (a.getLsbD 3 && b.getLsbD 3) || (b.getLsbD 3 && !r.getLsbD 3) || (!r.getLsbD 3 && a.getLsbD 3)
      c := (a.getLsbD 7 && b.getLsbD 7) || (b.getLsbD 7 && !r.getLsbD 7) || (!r.getLsbD 7 && a.getLsbD 7)
      v := (a.getLsbD 7 && b.getLsbD 7 && !r.getLsbD 7) || (!a.getLsbD 7 && !b.getLsbD 7 && r.getLsbD 7)
      n := r.getLsbD 7
      z := decide (r = 0)
      s := r.getLsbD 7 ^^
        ((a.getLsbD 7 && b.getLsbD 7 && !r.getLsbD 7) || (!a.getLsbD 7 && !b.getLsbD 7 && r.getLsbD 7)) } := rfl

/-- R201: the Boolean formulas with the sticky Z. -/
theorem subFlags_eq (f : Flags) (a b r : Byte) (sticky : Bool) : subFlags f a b r sticky =
    { f with
      h := (!a.getLsbD 3 && b.getLsbD 3) || (b.getLsbD 3 && r.getLsbD 3) || (r.getLsbD 3 && !a.getLsbD 3)
      c := (!a.getLsbD 7 && b.getLsbD 7) || (b.getLsbD 7 && r.getLsbD 7) || (r.getLsbD 7 && !a.getLsbD 7)
      v := (a.getLsbD 7 && !b.getLsbD 7 && !r.getLsbD 7) || (!a.getLsbD 7 && b.getLsbD 7 && r.getLsbD 7)
      n := r.getLsbD 7
      z := if sticky then decide (r = 0) && f.z else decide (r = 0)
      s := r.getLsbD 7 ^^
        ((a.getLsbD 7 && !b.getLsbD 7 && !r.getLsbD 7) || (!a.getLsbD 7 && b.getLsbD 7 && r.getLsbD 7)) } := rfl

/-- R200: of the sum the formulas are the carries and the signed overflow. -/
theorem addFlags_of_sum (f : Flags) {a b r : Byte} {carry : Bool}
    (hr : r.toNat = (a.toNat + b.toNat + carry.toNat) % 256) : addFlags f a b r = sumFlags f a b carry := by
  have hh := carry_formula (a := a) (b := b) (r := r) (carry := carry) 3 (by omega)
  have hc := carry_formula (a := a) (b := b) (r := r) (carry := carry) 7 (by omega)
  rw [addFlags_eq, hh, hc, signed_overflow_of_add hr, getLsbD_seven, decide_eq_zero_toNat, hr]
  simp [sumFlags, Nat.mod_eq_of_lt a.isLt, Nat.mod_eq_of_lt b.isLt]

/-- R201: of the difference the formulas are the borrows and the signed overflow. -/
theorem subFlags_of_difference (f : Flags) {a b r : Byte} {borrow : Bool} (sticky : Bool)
    (hr : r.toNat = (a.toNat + 512 - b.toNat - borrow.toNat) % 256) :
    subFlags f a b r sticky = differenceFlags f a b borrow sticky := by
  have hb := b.isLt
  have hone := borrow.toNat_le
  have hh := borrow_formula (a := a) (b := b) (r := r) (borrow := borrow) 3 (by omega)
  have hc := borrow_formula (a := a) (b := b) (r := r) (borrow := borrow) 7 (by omega)
  rw [subFlags_eq, hh, hc, signed_overflow_of_sub hr, getLsbD_seven, decide_eq_zero_toNat, hr]
  cases sticky <;> simp [differenceFlags, Nat.mod_eq_of_lt a.isLt, Nat.mod_eq_of_lt b.isLt]

/-- Settles O1: `addFlags_eq` and `addFlags_of_sum`. -/
theorem addFlagsAreFormulasAndCarries : Obligations.AddFlagsAreFormulasAndCarries :=
  ⟨addFlags_eq, fun f _ _ _ => addFlags_of_sum f (BitVec.toNat_ofNat _ _)⟩

/-- Settles O2: `subFlags_eq` and `subFlags_of_difference`. -/
theorem subFlagsAreFormulasAndBorrows : Obligations.SubFlagsAreFormulasAndBorrows :=
  ⟨subFlags_eq, fun f _ _ _ sticky => subFlags_of_difference f sticky (BitVec.toNat_ofNat _ _)⟩

/-- R202: V cleared; N, Z and S of the result. -/
theorem logicFlags_eq (f : Flags) (r : Byte) : logicFlags f r = resultFlags f r false := by
  rw [logicFlags, ← BitVec.getLsbD_eq_getElem, getLsbD_seven, beq_eq_decide_toNat]
  simp [resultFlags]

theorem comFlags_eq (f : Flags) (r : Byte) : comFlags f r = { resultFlags f r false with c := true } := by
  rw [comFlags, logicFlags_eq]

/-- R217: V at 0x80, C where the result is not zero. -/
theorem negFlags_eq (f : Flags) (a r : Byte) : negFlags f a r =
    { resultFlags f r (decide (r.toNat = 0x80)) with
      h := r.getLsbD 3 || a.getLsbD 3
      c := decide (r.toNat ≠ 0) } := by
  simp only [negFlags, ← BitVec.getLsbD_eq_getElem, getLsbD_seven, bne, beq_eq_decide_toNat, ne_eq, decide_not]
  rfl

/-- R218, R219: V at the one value. -/
theorem stepFlags_eq (f : Flags) (r overflowAt : Byte) :
    stepFlags f r overflowAt = resultFlags f r (decide (r.toNat = overflowAt.toNat)) := by
  simp only [stepFlags, ← BitVec.getLsbD_eq_getElem, getLsbD_seven, beq_eq_decide_toNat]
  rfl

/-- R205: less than 0x8000 is added, so the sum carries where the sign bit falls and overflows where it rises. -/
theorem adiwFlags_of_sum (f : Flags) {a r : Word} {k : Nat} (hk : k < 32768) (hr : r.toNat = (a.toNat + k) % 65536) :
    adiwFlags f a r =
      { resultFlags16 f r (decide (a.toNat < 32768 ∧ 32768 ≤ r.toNat)) with c := decide (65536 ≤ a.toNat + k) } := by
  have ha := a.isLt
  have hc : 65536 ≤ a.toNat + k ↔ r.toNat < 32768 ∧ 32768 ≤ a.toNat := by omega
  simp only [adiwFlags, ← BitVec.getLsbD_eq_getElem, getLsbD_fifteen, beq_eq_decide_toNat, resultFlags16, hc,
    Bool.decide_and, ← decide_not, Nat.not_le]
  rfl

/-- R210: less than 0x8000 is taken away, so the difference borrows where the sign bit rises and overflows where it falls. -/
theorem sbiwFlags_of_difference (f : Flags) {a r : Word} {k : Nat} (hk : k < 32768)
    (hr : r.toNat = (a.toNat + 65536 - k) % 65536) :
    sbiwFlags f a r =
      { resultFlags16 f r (decide (32768 ≤ a.toNat ∧ r.toNat < 32768)) with c := decide (a.toNat < k) } := by
  have ha := a.isLt
  have hc : a.toNat < k ↔ 32768 ≤ r.toNat ∧ a.toNat < 32768 := by omega
  simp only [sbiwFlags, ← BitVec.getLsbD_eq_getElem, getLsbD_fifteen, beq_eq_decide_toNat, resultFlags16, hc,
    Bool.decide_and, ← decide_not, Nat.not_le]
  rfl

/-! ### What the instruction shapes leave -/

/-- An instruction that ends in `u`, which differs from `s` in the data space only, and advances. -/
theorem finishes_of_retire {i : Instr} {s u : State} {target : Word} {n : Nat} (hu : u = { s with dm := u.dm })
    (h : exec i s = .next (u.retire target n)) : Finishes i s target n u.byte := by
  refine ⟨u.dm, ?_, fun _ => rfl⟩
  rw [h, State.retire, hu]

section shapes

variable {i : Instr} {s : State} {d : Reg} (hw : s.dm.wf = true)
include hw

theorem byte_setByte_eq_assign (a : Nat) (v : Byte) : (s.setByte a v).byte = assign s.byte a v :=
  funext fun b => State.byte_setByte hw a b v

theorem writesRegAndFlags_of_exec {v : Byte} {f : Flags} (h : exec i s = writeRegFlags s d v f) :
    WritesRegAndFlags i s d v f := by
  have hfin := finishes_of_retire rfl h
  rwa [State.setReg, byte_setByte_eq_assign (State.wf_setFlags hw f), State.setFlags, byte_setByte_eq_assign hw] at hfin

theorem writesSreg_of_exec {f : Flags} (h : exec i s = writeFlags s f) : WritesSreg i s f.toByte :=
  finishes_of_setByte hw h

/-- The word results: `ADIW`, `SBIW`. -/
theorem finishes_of_writePairFlags {v : Word} {f : Flags}
    (h : exec i s = .next (((s.setFlags f).setPair d v).retireNext 2)) :
    Finishes i s (s.pc + 1) 2 (assignPair (assign s.byte sregAddr f.toByte) d.val v) := by
  have hfin := finishes_of_retire rfl h
  rwa [State.setPair, byte_setByte_eq_assign (State.wf_setByte (State.wf_setFlags hw f) _ _),
    byte_setByte_eq_assign (State.wf_setFlags hw f), State.setFlags, byte_setByte_eq_assign hw] at hfin

/-- R200, R227: what `addInto` writes is the sum and its flags. -/
theorem addsInto_of_exec {b : Byte} {carry : Bool} (h : exec i s = addInto s d b (BitVec.ofNat 8 carry.toNat)) :
    AddsInto i s d b carry := by
  refine writesRegAndFlags_of_exec hw ?_
  rw [h, addInto, add_carry_eq, addFlags_of_sum _ (BitVec.toNat_ofNat _ _)]

/-- R201, R227: what `subInto` writes is the difference and its flags. -/
theorem subtractsInto_of_exec {b : Byte} {borrow sticky : Bool}
    (h : exec i s = subInto s d b (BitVec.ofNat 8 borrow.toNat) sticky) : SubtractsInto i s d b borrow sticky := by
  refine writesRegAndFlags_of_exec hw ?_
  rw [h, subInto, sub_borrow_eq, subFlags_of_difference _ _ (BitVec.toNat_ofNat _ _)]

theorem compares_of_exec {b : Byte} {borrow sticky : Bool}
    (h : exec i s = compare s d b (BitVec.ofNat 8 borrow.toNat) sticky) : Compares i s d b borrow sticky := by
  refine writesSreg_of_exec hw ?_
  rw [h, compare, sub_borrow_eq, subFlags_of_difference _ _ (BitVec.toNat_ofNat _ _)]

theorem logicInto_of_exec {res : Byte} (h : exec i s = logicInto s d res) : LogicInto i s d res := by
  refine writesRegAndFlags_of_exec hw ?_
  rw [h, logicInto, logicFlags_eq]

end shapes

/-! ### The instructions -/

/-- Settles O3: both are `addInto`, with no carry or the carry flag. -/
theorem additionsGiveSumAndFlags : Obligations.AdditionsGiveSumAndFlags :=
  fun s _ _ hw => ⟨addsInto_of_exec hw rfl, addsInto_of_exec hw (s.carry_eq ▸ rfl)⟩

/-- Settles O4: all are `subInto`, with no borrow or the carry flag. -/
theorem subtractionsGiveDifferenceAndFlags : Obligations.SubtractionsGiveDifferenceAndFlags :=
  fun s _ _ _ hw => ⟨subtractsInto_of_exec hw rfl, subtractsInto_of_exec hw rfl,
    subtractsInto_of_exec hw (s.carry_eq ▸ rfl), subtractsInto_of_exec hw (s.carry_eq ▸ rfl)⟩

/-- Settles O5: all are `compare`, with no borrow or the carry flag. -/
theorem comparesWriteFlagsOnly : Obligations.ComparesWriteFlagsOnly :=
  fun s _ _ _ hw => ⟨compares_of_exec hw rfl, compares_of_exec hw (s.carry_eq ▸ rfl), compares_of_exec hw rfl⟩

/-- Settles O6: all are `logicInto`; the other names differ from their bases in how the result is written. -/
theorem logicGivesResultAndFlags : Obligations.LogicGivesResultAndFlags := by
  intro s d r k hw
  have hmask : 0xFF - k = ~~~k := BitVec.allOnes_sub_eq_not k
  refine ⟨logicInto_of_exec hw rfl, logicInto_of_exec hw rfl, logicInto_of_exec hw rfl, logicInto_of_exec hw rfl,
    logicInto_of_exec hw rfl, logicInto_of_exec hw ?_, logicInto_of_exec hw ?_, logicInto_of_exec hw rfl,
    logicInto_of_exec hw ?_⟩
  · rw [exec, execTst, execAnd, BitVec.and_self]
  · rw [exec, execClr, execEor, BitVec.xor_self]
    rfl
  · rw [exec, execCbr, execAndi, hmask]

/-- Settles O7: each result by its value, each flag computation by its own lemma. -/
theorem oneOperandArithmetic : Obligations.OneOperandArithmetic := by
  intro s d hw
  have hcom : 0xFF - s.reg d = BitVec.ofNat 8 (255 - (s.reg d).toNat) := by bv_omega
  have hneg : 0 - s.reg d = BitVec.ofNat 8 (256 - (s.reg d).toNat) := by bv_omega
  have hinc : s.reg d + 1 = BitVec.ofNat 8 ((s.reg d).toNat + 1) := by bv_omega
  have hdec : s.reg d - 1 = BitVec.ofNat 8 ((s.reg d).toNat + 255) := by bv_omega
  refine ⟨writesRegAndFlags_of_exec hw ?_, writesRegAndFlags_of_exec hw ?_, writesRegAndFlags_of_exec hw ?_,
    writesRegAndFlags_of_exec hw ?_⟩
  · rw [exec, execCom, comFlags_eq, hcom]
  · rw [exec, execNeg, negFlags_eq, hneg]
  · rw [exec, execInc, stepFlags_eq, hinc]
    rfl
  · rw [exec, execDec, stepFlags_eq, hdec]
    rfl

/-- Settles O8: the pair by `finishes_of_writePairFlags`, C and V by `adiwFlags_of_sum` and `sbiwFlags_of_difference`. -/
theorem wordImmediatesGiveResultAndFlags : Obligations.WordImmediatesGiveResultAndFlags := by
  intro s d k hw
  have hk : k.toNat < 32768 := Nat.lt_trans k.isLt (by decide)
  have hsum : s.pair d + k.setWidth 16 = BitVec.ofNat 16 ((s.pair d).toNat + k.toNat) := by bv_omega
  have hdiff : s.pair d - k.setWidth 16 = BitVec.ofNat 16 ((s.pair d).toNat + 65536 - k.toNat) := by bv_omega
  refine ⟨finishes_of_writePairFlags hw ?_, finishes_of_writePairFlags hw ?_⟩
  · rw [exec, execAdiw, hsum, adiwFlags_of_sum _ hk (BitVec.toNat_ofNat _ _)]
  · rw [exec, execSbiw, hdiff, sbiwFlags_of_difference _ hk (BitVec.toNat_ofNat _ _)]

end Sys2Proof.Machine
end

section
/-! PROOFS. The multiplies (spec/42): two bytes have an exact 16-bit product that is never 0x8000, so doubling it modulo 2^16
gives zero for the product zero only; each instruction writes the product, C, Z and nothing else. -/

namespace Sys2Proof.Machine

/-! ### The exact product -/

theorem natAbs_toInt_byte_le (a : Byte) : a.toInt.natAbs ≤ 128 := by
  have := BitVec.le_toInt a
  have := BitVec.toInt_lt (x := a)
  omega

theorem natAbs_toNat_byte_le (a : Byte) : (a.toNat : Int).natAbs ≤ 255 := Nat.le_of_lt_succ a.isLt

theorem toNat_ofInt_mul_toNat (a b : Byte) : (BitVec.ofInt 16 ((a.toNat : Int) * b.toNat)).toNat = a.toNat * b.toNat := by
  have hle : a.toNat * b.toNat ≤ 255 * 255 := Nat.mul_le_mul (Nat.le_of_lt_succ a.isLt) (Nat.le_of_lt_succ b.isLt)
  rw [← Int.natCast_mul, BitVec.ofInt_natCast, BitVec.toNat_ofNat]
  omega

/-- R247: with one factor a signed byte, the product is in the signed range of a word. -/
theorem toInt_ofInt_mul {x y : Int} (hx : x.natAbs ≤ 128) (hy : y.natAbs ≤ 255) :
    (BitVec.ofInt 16 (x * y)).toInt = x * y := by
  have hle : (x * y).natAbs ≤ 128 * 255 := Int.natAbs_mul x y ▸ Nat.mul_le_mul hx hy
  apply BitVec.toInt_ofInt_eq_self <;> omega

/-- Two numbers of eight bits do not multiply to 2^15: both would be powers of two, at most 2^7 each. -/
theorem mul_ne_two_pow_fifteen {m n : Nat} (hm : m ≤ 255) (hn : n ≤ 255) : m * n ≠ 2 ^ 15 := by
  intro h
  obtain ⟨i, -, rfl⟩ := (Nat.dvd_prime_pow Nat.prime_two).mp (Dvd.intro _ h)
  obtain ⟨j, -, rfl⟩ := (Nat.dvd_prime_pow Nat.prime_two).mp (Dvd.intro_left _ h)
  have hi : i < 8 := (Nat.pow_lt_pow_iff_right Nat.one_lt_two).mp (Nat.lt_succ_of_le hm)
  have hj : j < 8 := (Nat.pow_lt_pow_iff_right Nat.one_lt_two).mp (Nat.lt_succ_of_le hn)
  have hsum : i + j = 15 := Nat.pow_right_injective (le_refl 2) ((Nat.pow_add 2 i j).trans h)
  omega

/-- R247: no product of two bytes, read with or without sign, is the word 0x8000, the one nonzero word that doubles to
zero. -/
theorem ofInt_mul_toNat_ne_signBit {x y : Int} (hx : x.natAbs ≤ 255) (hy : y.natAbs ≤ 255) :
    (BitVec.ofInt 16 (x * y)).toNat ≠ 32768 := by
  have hle : (x * y).natAbs ≤ 255 * 255 := Int.natAbs_mul x y ▸ Nat.mul_le_mul hx hy
  have hne : (x * y).natAbs ≠ 2 ^ 15 := Int.natAbs_mul x y ▸ mul_ne_two_pow_fifteen hx hy
  rw [BitVec.toNat_ofInt]
  omega

/-! ### Result and flags -/

theorem shiftLeft_one_eq_double (p : Word) : p <<< 1 = BitVec.ofNat 16 (2 * p.toNat) := by
  apply BitVec.eq_of_toNat_eq
  rw [BitVec.toNat_shiftLeft, Nat.shiftLeft_eq, Nat.mul_comm, BitVec.toNat_ofNat, Nat.pow_one]

/-- R247: a multiply stores zero where the product is zero and nowhere else. -/
theorem stored_eq_zero_iff {p : Word} (fractional : Bool) (hp : p.toNat ≠ 32768) :
    (if fractional then BitVec.ofNat 16 (2 * p.toNat) else p).toNat = 0 ↔ p.toNat = 0 := by
  cases fractional with
  | false => exact Iff.rfl
  | true =>
    rw [if_pos rfl, BitVec.toNat_ofNat]
    omega

/-- R240: C is bit 15 of the product. Z, of the stored word, is also that of the product where both are zero or neither
is. -/
theorem mulFlags_eq (f : Flags) {p res : Word} (hz : res.toNat = 0 ↔ p.toNat = 0) :
    mulFlags f p res = { f with c := decide (32768 ≤ p.toNat), z := decide (p.toNat = 0) } := by
  rw [mulFlags, ← BitVec.getLsbD_eq_getElem, getLsbD_fifteen, beq_eq_decide_toNat, ← decide_eq_decide.mpr hz]
  rfl

/-- R240: what `multiply` does with two bytes read as integers. -/
theorem multiplies_of_exec {i : Instr} {s : State} {x y : Int} {fractional : Bool} (hw : s.dm.wf = true)
    (hx : x.natAbs ≤ 255) (hy : y.natAbs ≤ 255) (h : exec i s = multiply s x y fractional) :
    Multiplies i s (BitVec.ofInt 16 (x * y)) fractional := by
  have hz := stored_eq_zero_iff fractional (ofInt_mul_toNat_ne_signBit hx hy)
  refine finishes_of_writePairFlags (d := 0) hw ?_
  rw [h, multiply, shiftLeft_one_eq_double, mulFlags_eq _ hz]

/-! ### The instructions -/

/-- Settles O9: all are `multiply`, of the operands read with or without sign. -/
theorem multipliesStoreExactProduct : Obligations.MultipliesStoreExactProduct := by
  intro s d r hw
  have hu (k : Reg) := natAbs_toNat_byte_le (s.reg k)
  have hs (k : Reg) := natAbs_toInt_byte_le (s.reg k)
  have hs' (k : Reg) := (hs k).trans (by decide : 128 ≤ 255)
  exact ⟨_, _, _, toNat_ofInt_mul_toNat _ _, toInt_ofInt_mul (hs d) (hs' r), toInt_ofInt_mul (hs d) (hu r),
    multiplies_of_exec hw (hu d) (hu r) rfl, multiplies_of_exec hw (hs' d) (hs' r) rfl,
    multiplies_of_exec hw (hs' d) (hu r) rfl, multiplies_of_exec hw (hu d) (hu r) rfl,
    multiplies_of_exec hw (hs' d) (hs' r) rfl, multiplies_of_exec hw (hs' d) (hu r) rfl⟩

end Sys2Proof.Machine
end

section
/-! PROOFS. The shifts, the flag instructions and the bit copies (spec/43): each shifted byte by its value, its
flags by the bit shifted out; putting one bit of a byte keeps the other seven. -/

namespace Sys2Proof.Machine

/-! ### Shifted bytes -/

/-- The bit that a right shift loses. -/
theorem getLsbD_zero_eq_decide_odd (x : Byte) : x.getLsbD 0 = decide (x.toNat % 2 = 1) := by
  rw [BitVec.getLsbD, Nat.testBit_zero]

theorem toNat_append_eq {m n : Nat} (x : BitVec m) (y : BitVec n) : (x ++ y).toNat = 2 ^ n * x.toNat + y.toNat := by
  rw [BitVec.toNat_append, Nat.shiftLeft_eq, Nat.mul_comm, Nat.two_pow_add_eq_or_of_lt y.isLt]

/-- R252 to R254: one place to the right, `top` entering bit 7. -/
theorem shiftRight_eq (top : Bool) (a : Byte) :
    BitVec.ofBool top ++ a.extractLsb' 1 7 = BitVec.ofNat 8 (a.toNat / 2 + 128 * top.toNat) := by
  have ha := a.isLt
  have ht := top.toNat_le
  apply BitVec.eq_of_toNat_eq
  simp only [toNat_append_eq, BitVec.toNat_ofBool, BitVec.extractLsb'_toNat, Nat.shiftRight_one, BitVec.toNat_ofNat]
  omega

/-- R254: with the sign bit kept, the shift halves the signed value, rounding down. -/
theorem half_toInt_eq (a : Byte) :
    BitVec.ofInt 8 (a.toInt / 2) = BitVec.ofNat 8 (a.toNat / 2 + 128 * (a.getLsbD 7).toNat) := by
  have ha := a.isLt
  apply BitVec.eq_of_toNat_eq
  rw [BitVec.toNat_ofInt, BitVec.toNat_ofNat, getLsbD_seven, BitVec.toInt_eq_toNat_cond]
  by_cases h : 128 ≤ a.toNat
  · rw [if_neg (by omega), decide_eq_true h, Bool.toNat_true]
    omega
  · rw [if_pos (by omega), decide_eq_false h, Bool.toNat_false]
    omega

/-- R255: the nibbles exchanged. -/
theorem swapNibbles_eq (a : Byte) :
    a.extractLsb' 0 4 ++ a.extractLsb' 4 4 = BitVec.ofNat 8 (a.toNat % 16 * 16 + a.toNat / 16) := by
  have hhigh : a.toNat / 16 < 16 := Nat.div_lt_of_lt_mul a.isLt
  apply BitVec.eq_of_toNat_eq
  simp only [toNat_append_eq, BitVec.extractLsb'_toNat, Nat.shiftRight_eq_div_pow, BitVec.toNat_ofNat, Nat.reducePow,
    Nat.div_one, Nat.mod_eq_of_lt hhigh]
  omega

/-! ### The flags of a shift -/

/-- R258: C is the bit shifted out, V = N ^ C. -/
theorem shiftRightFlags_eq (f : Flags) (a r : Byte) : shiftRightFlags f a r =
    { resultFlags f r (decide (128 ≤ r.toNat) ^^ decide (a.toNat % 2 = 1)) with c := decide (a.toNat % 2 = 1) } := by
  simp only [shiftRightFlags, ← BitVec.getLsbD_eq_getElem, getLsbD_seven, getLsbD_zero_eq_decide_odd,
    beq_eq_decide_toNat]
  rfl

/-- R200: with both operands equal, the carries out of bits 7 and 3 are those bits, and the overflow is N ^ C. -/
theorem addFlags_self (f : Flags) (a r : Byte) : addFlags f a a r =
    { resultFlags f r (decide (128 ≤ r.toNat) ^^ decide (128 ≤ a.toNat)) with
      c := decide (128 ≤ a.toNat), h := a.getLsbD 3 } := by
  have hcarry (x y : Bool) : ((x && x) || (x && !y) || (!y && x)) = x := by cases x <;> cases y <;> rfl
  have hoverflow (x y : Bool) : ((x && x && !y) || (!x && !x && y)) = (y ^^ x) := by cases x <;> cases y <;> rfl
  rw [addFlags_eq, hcarry, hcarry, hoverflow, decide_eq_zero_toNat, getLsbD_seven, getLsbD_seven, resultFlags]

/-! ### One bit of a byte -/

/-- `setBit` and `clearBit` give bit `b` and keep the other seven. -/
theorem getLsbD_putBit (v : Byte) (b : Fin 8) (on : Bool) {j : Nat} (hj : j < 8) :
    (if on then setBit v b else clearBit v b).getLsbD j = if j = b.val then on else v.getLsbD j := by
  have hmask : (1#8 <<< b.val).getLsbD j = decide (j = b.val) := by
    rw [BitVec.getLsbD_shiftLeft, BitVec.getLsbD_one, decide_eq_true hj]
    by_cases h : j < b.val <;> simp [h] <;> omega
  cases on with
  | false =>
    rw [if_neg Bool.false_ne_true, clearBit, BitVec.getLsbD_and, BitVec.getLsbD_not, hmask, decide_eq_true hj]
    split <;> simp [*]
  | true =>
    rw [if_pos rfl, setBit, BitVec.getLsbD_or, hmask]
    split <;> simp [*]

namespace Flags

theorem get_ofByte (b : Byte) (k : Fin 8) : (ofByte b).get k = b.getLsbD k.val := by
  fin_cases k <;> rfl

theorem getLsbD_toByte (f : Flags) (k : Fin 8) : f.toByte.getLsbD k.val = f.get k := by
  rw [← get_ofByte, ofByte_toByte]

theorem get_put_self (f : Flags) (k : Fin 8) (on : Bool) : (f.put k on).get k = on := by
  fin_cases k <;> rfl

/-- R260, R261: the flags but `k` are kept. -/
theorem get_put (f : Flags) (k j : Fin 8) (on : Bool) : (f.put k on).get j = if j = k then on else f.get j := by
  split
  case isTrue h => rw [h, get_put_self]
  case isFalse h => exact changesOnly_put f k on j (by simpa using h)

/-- R260, R261: putting one flag is setting or clearing its bit of the status byte. -/
theorem toByte_put_ofByte (b : Byte) (k : Fin 8) (on : Bool) :
    ((ofByte b).put k on).toByte = if on then setBit b k else clearBit b k := by
  refine BitVec.eq_of_getLsbD_eq fun j hj => ?_
  rw [getLsbD_putBit b k on hj, getLsbD_toByte _ ⟨j, hj⟩, get_put, get_ofByte]
  simp only [Fin.ext_iff]

end Flags

/-! ### What the instruction shapes leave -/

section shapes

variable {i : Instr} {s : State} {d : Reg} (hw : s.dm.wf = true)
include hw

/-- R250, R251: a register added to itself is shifted left, the carry entering bit 0. -/
theorem shiftsLeftInto_of_exec {low : Bool} (h : exec i s = addInto s d (s.reg d) (BitVec.ofNat 8 low.toNat)) :
    ShiftsLeftInto i s d low := by
  refine writesRegAndFlags_of_exec hw ?_
  rw [h, addInto, add_carry_eq, ← Nat.two_mul, addFlags_self]

theorem shiftsInto_of_exec {res : Byte} (h : exec i s = shiftInto s d (s.reg d) res) : ShiftsInto i s d res := by
  refine writesRegAndFlags_of_exec hw ?_
  rw [h, shiftInto, shiftRightFlags_eq]

theorem writesReg_of_exec {v : Byte} (h : exec i s = writeReg s d v) : WritesReg i s d v :=
  finishes_of_setByte hw h

theorem putsFlag_of_exec {k : Fin 8} {on : Bool} (h : exec i s = writeFlags s (s.flags.put k on)) :
    PutsFlag i s k.val on := by
  rw [PutsFlag, ← setBit_eq, ← clearBit_eq, ← Flags.toByte_put_ofByte]
  exact writesSreg_of_exec hw h

end shapes

/-! ### The instructions -/

/-- Settles O10: the left shifts are `addInto` of a register and itself, the right shifts are `shiftInto`, which differ in
the bit entering; `SWAP` writes the register only. -/
theorem shiftsGiveResultAndFlags : Obligations.ShiftsGiveResultAndFlags := by
  intro s d hw
  refine ⟨shiftsLeftInto_of_exec hw rfl, shiftsLeftInto_of_exec hw ?_, shiftsInto_of_exec hw ?_,
    shiftsInto_of_exec hw ?_, shiftsInto_of_exec hw ?_, writesReg_of_exec hw ?_⟩
  · rw [← State.carry_eq]
    rfl
  · rw [exec, execLsr, shiftRight_eq]
    rfl
  · rw [exec, execRor, shiftRight_eq]
  · rw [exec, execAsr, shiftRight_eq, half_toInt_eq]
    rfl
  · rw [exec, execSwap, swapNibbles_eq]

/-- Settles O11: the sixteen other names are `BSET` and `BCLR` at their flag numbers. -/
theorem flagInstructionsPutOneFlag : Obligations.FlagInstructionsPutOneFlag := by
  intro s k hw
  have hset (j : Fin 8) : PutsFlag (.bset j) s j.val true := putsFlag_of_exec hw rfl
  have hclear (j : Fin 8) : PutsFlag (.bclr j) s j.val false := putsFlag_of_exec hw rfl
  exact ⟨hset k, hclear k,
    hset 0, hset 1, hset 2, hset 3, hset 4, hset 5, hset 6, hset 7,
    hclear 0, hclear 1, hclear 2, hclear 3, hclear 4, hclear 5, hclear 6, hclear 7⟩

/-- Settles O12: `BST` puts flag 6, `BLD` puts bit `b` of the register. -/
theorem bitCopiesThroughT : Obligations.BitCopiesThroughT :=
  fun s d b hw => ⟨putsFlag_of_exec (k := 6) hw rfl, _, writesReg_of_exec hw rfl,
    fun _ hj => getLsbD_putBit (s.reg d) b s.flags.t hj⟩

end Sys2Proof.Machine
end

section
/-! PROOFS. The jumps, branches and register skips (spec/44 R300 to R306, R330 to R359), which move `pc` and change no byte,
and the control instructions (spec/46). -/

namespace Sys2Proof.Machine

/-! ### Jumps, branches and skips -/

/-- R300: a relative target is `pc + k + 1` modulo 2^16, with `k` signed. -/
theorem relTarget_signExtend (s : State) {w : Nat} (k : BitVec w) :
    relTarget s (k.signExtend 16) = BitVec.ofInt 16 (s.pc.toNat + k.toInt + 1) := by
  simp [relTarget, BitVec.signExtend, BitVec.ofInt_add]

/-- R121: only the low 16 bits of an absolute target reach `pc`. -/
theorem setWidth_eq_ofNat_mod (k : BitVec 22) : k.setWidth 16 = BitVec.ofNat 16 (k.toNat % 65536) := by
  apply BitVec.eq_of_toNat_eq
  simp

section shapes

variable {i : Instr} {s : State}

theorem onlyMoves_of_retire {target : Word} {n : Nat} (h : exec i s = .next (s.retire target n)) :
    OnlyMoves i s target n := finishes_of_retire rfl h

theorem branches_of_exec {cond : Bool} {k : BitVec 7} (h : exec i s = branch s cond k) : Branches i s cond k := by
  rw [Branches, ← relTarget_signExtend]
  cases cond with
  | true => exact onlyMoves_of_retire h
  | false => exact onlyMoves_of_retire h

theorem skips_of_exec {cond : Bool} (h : exec i s = skip s cond) : Skips i s cond := by
  refine ⟨?_, ?_, ?_⟩
  · rintro rfl
    exact onlyMoves_of_retire h
  · rintro rfl hin
    exact onlyMoves_of_retire (h.trans (skip_in hin))
  · rintro rfl hout
    exact h.trans (skip_out hout)

end shapes

/-- Settles O14: each retires at its target. -/
theorem jumpsReachTheirTargets : Obligations.JumpsReachTheirTargets := by
  intro s k k22
  rw [← relTarget_signExtend, ← setWidth_eq_ofNat_mod]
  exact ⟨onlyMoves_of_retire rfl, onlyMoves_of_retire rfl, onlyMoves_of_retire rfl⟩

/-- Settles O19: all are `skip`. -/
theorem registerSkips : Obligations.RegisterSkips := by
  intro s d r b
  rw [← beq_eq_decide_toNat]
  exact ⟨skips_of_exec rfl, skips_of_exec rfl, skips_of_exec rfl⟩

/-- Settles O21: the eighteen other names are `BRBS` and `BRBC` at their flag numbers. -/
theorem branchesFollowTheirFlag : Obligations.BranchesFollowTheirFlag := by
  intro s i k flag
  have hset (j : Fin 8) : Branches (.brbs j k) s (flag j.val) k :=
    branches_of_exec (by rw [exec, execBrbs, State.flags, Flags.get_ofByte])
  have hclear (j : Fin 8) : Branches (.brbc j k) s (!flag j.val) k :=
    branches_of_exec (by rw [exec, execBrbc, State.flags, Flags.get_ofByte])
  exact ⟨hset i, hclear i, hset 0, hset 0, hclear 0, hclear 0, hset 1, hclear 1, hset 2, hclear 2, hset 3, hclear 3,
    hset 4, hclear 4, hset 5, hclear 5, hset 6, hclear 6, hset 7, hclear 7⟩

/-- Settles O36: each meaning is its one record update. -/
theorem controlInstructionsAndNoOps : Obligations.ControlInstructionsAndNoOps :=
  fun _ _ => ⟨rfl, rfl, rfl, rfl, rfl, rfl, rfl, rfl, rfl⟩

end Sys2Proof.Machine
end

section
/-! PROOFS. The return-address stack (spec/44 R301, R302), the calls and returns, and the interrupt entry (spec/60 R506,
R509, R510): a push or pop in plain storage has one outcome, and a return after a push undoes it. -/

namespace Sys2Proof.Machine

/-! ### Pushing a return address -/

/-- R301 in plain storage: both stack bytes written and `SP` lowered by 2. -/
def State.pushed (s : State) (ret : Word) : State :=
  ((s.setByte s.sp.toNat ret.lo).setByte (s.sp - 1).toNat ret.hi).setSp (s.sp - 2)

section push

variable {s : State}

theorem State.wf_pushed (hw : s.dm.wf = true) (ret : Word) : (s.pushed ret).dm.wf = true :=
  wf_setSp (wf_setByte (wf_setByte hw _ _) _ _) _

theorem byte_setSp_eq_assignPair (hw : s.dm.wf = true) (v : Word) : (s.setSp v).byte = assignPair s.byte splAddr v := by
  rw [State.setSp, byte_setByte_eq_assign (State.wf_setByte hw _ _), byte_setByte_eq_assign hw]
  rfl

theorem byte_pushed (hw : s.dm.wf = true) (ret : Word) : (s.pushed ret).byte = pushedView s ret := by
  rw [State.pushed, byte_setSp_eq_assignPair (State.wf_setByte (State.wf_setByte hw _ _) _ _),
    byte_setByte_eq_assign (State.wf_setByte hw _ _), byte_setByte_eq_assign hw]
  rfl

theorem pushRet_of_reaches (hlow : s.Reaches s.sp) (hhigh : s.Reaches (s.sp - 1)) (ret : Word) :
    pushRet s ret = .next (s.pushed ret) := by
  obtain ⟨hlt, -, hc, hv⟩ := hlow
  obtain ⟨hlt', -, hc', hv'⟩ := hhigh
  rw [pushRet, memWrite_plain hlt hc hv, Res.bind_next]
  exact congrArg (Res.bind · _) (memWrite_plain (s := s.setByte s.sp.toNat ret.lo) hlt' hc' hv')

/-- R301, R522: the low byte is written first. -/
theorem pushRet_low_out (hout : s.cfg.dataSize ≤ s.sp.toNat) (hv : s.cfg.callouts.contains s.sp.toNat = false)
    (ret : Word) : pushRet s ret = .fault (.dataOutOfRange s.sp) := by
  rw [pushRet, memWrite_out hout hv, Res.bind_fault]

theorem pushRet_high_out (hlow : s.Reaches s.sp) (hout : s.cfg.dataSize ≤ (s.sp - 1).toNat)
    (hv : s.cfg.callouts.contains (s.sp - 1).toNat = false) (ret : Word) :
    pushRet s ret = .fault (.dataOutOfRange (s.sp - 1)) := by
  obtain ⟨hlt, -, hc, hv0⟩ := hlow
  rw [pushRet, memWrite_plain hlt hc hv0, Res.bind_next]
  exact congrArg (Res.bind · _) (memWrite_out (s := s.setByte s.sp.toNat ret.lo) hout hv)

/-- R73: in the core-only configuration every address is plain. -/
theorem plainAt_of_coreOnly (h : s.cfg.CoreOnly) (a : Word) : s.PlainAt a := by
  obtain ⟨hb, hc⟩ := h
  simp [State.PlainAt, Config.readChained, Config.writeChained, hb, hc]

/-- A call that pushes `ret` in plain storage; its target may depend on the state after the push (R308). -/
theorem finishes_of_call {i : Instr} {ret : Word} {target : State → Word} {n : Nat} (hw : s.dm.wf = true)
    (hlow : s.Reaches s.sp) (hhigh : s.Reaches (s.sp - 1))
    (h : exec i s = (pushRet s ret).bind fun u => .next (u.retire (target u) n)) :
    Finishes i s (target (s.pushed ret)) n (pushedView s ret) := by
  rw [pushRet_of_reaches hlow hhigh, Res.bind_next] at h
  rw [← byte_pushed hw]
  exact finishes_of_retire rfl h

/-- R506: with I set and a vector pending, service takes the interrupt. -/
theorem service_taken (hi : s.flags.i = true) (hp : s.intPending ≠ 0) : service s = takeInterrupt s := by
  rw [service, if_pos (by rw [hi, Bool.true_and, bne_iff_ne]; exact hp)]

/-- The calls and the taking of an interrupt stop where their push does. -/
theorem callsAndEntry_fault {e : Fault} (h : ∀ ret, pushRet s ret = .fault e) (k : BitVec 12) (k22 : BitVec 22) :
    exec (.rcall k) s = .fault e ∧ exec .icall s = .fault e ∧ exec (.call k22) s = .fault e ∧
      (s.flags.i = true → s.intPending ≠ 0 → service s = .fault e) := by
  refine ⟨?_, ?_, ?_, fun hi hp => ?_⟩
  · rw [exec, execRcall, callTo, h, Res.bind_fault]
  · rw [exec, execIcall, h, Res.bind_fault]
  · rw [exec, execCall, callTo, h, Res.bind_fault]
  · rw [service_taken hi hp, takeInterrupt, h, Res.bind_fault]

end push

/-- Settles O15: all are `finishes_of_call`; `ICALL` reads its target from the bytes the push leaves. -/
theorem callsPushReturnAddress : Obligations.CallsPushReturnAddress := by
  intro s k k22 hw hlow hhigh
  rw [← relTarget_signExtend, ← setWidth_eq_ofNat_mod]
  refine ⟨finishes_of_call (target := fun _ => _) hw hlow hhigh rfl, ?_,
    finishes_of_call (target := fun _ => _) hw hlow hhigh rfl⟩
  rw [← byte_pushed hw]
  have hfin : Finishes .icall s _ 3 _ := finishes_of_call (target := fun u => u.pair Pointer.z.low) hw hlow hhigh rfl
  rwa [← byte_pushed hw] at hfin

/-- Settles O16: where the push stops, by `pushRet_low_out` and `pushRet_high_out`, all four stop. -/
theorem pushFaultIsTheFirstWrite : Obligations.PushFaultIsTheFirstWrite := by
  intro s k k22 hcore
  have hplain := plainAt_of_coreOnly hcore
  have hv (a : Word) : s.cfg.callouts.contains a.toNat = false := (hplain a).2.2
  exact ⟨fun hout => callsAndEntry_fault (pushRet_low_out hout (hv _)) k k22,
    fun hin hout => callsAndEntry_fault (pushRet_high_out ⟨hin, hplain _⟩ hout (hv _)) k k22⟩

/-! ### The I flag -/

/-- `SREG.I` replaced (R312, R506). -/
def State.putI (s : State) (on : Bool) : State := s.setFlags { s.flags with i := on }

theorem byte_putI {s : State} (hw : s.dm.wf = true) (on : Bool) :
    (s.putI on).byte = assign s.byte sregAddr (if on then s.sreg ||| 0x80 else s.sreg &&& 0x7F) := by
  have hbits : ({ s.flags with i := on } : Flags).toByte = if on then s.sreg ||| 0x80 else s.sreg &&& 0x7F :=
    (Flags.toByte_put_ofByte s.sreg 7 on).trans (by rw [setBit_eq, clearBit_eq]; rfl)
  rw [State.putI, State.setFlags, byte_setByte_eq_assign hw, hbits]

/-- R510: I set again restores a status byte that had it set. -/
theorem and_or_bit7_eq_self {b : Byte} (h : (Flags.ofByte b).i = true) : b &&& 0x7F ||| 0x80 = b := by
  revert b
  decide

/-! ### Popping a return address -/

section pop

variable {s : State}

theorem popRet_of_plain (hlt : (s.sp + 1).toNat < s.cfg.dataSize) (hlt' : (s.sp + 2).toNat < s.cfg.dataSize)
    (hc : s.cfg.readChained (s.sp + 1).toNat = false) (hc' : s.cfg.readChained (s.sp + 2).toNat = false) :
    popRet s = .next (poppedAddress s, s.setSp (s.sp + 2)) := by
  simp only [popRet, memRead_plain hlt hc, memRead_plain hlt' hc', Res.bind_next, poppedAddress]

/-- R302, R522: the high byte is read first. -/
theorem popRet_high_out (hout : s.cfg.dataSize ≤ (s.sp + 1).toNat) :
    popRet s = .fault (.dataOutOfRange (s.sp + 1)) := by
  rw [popRet, memRead_out hout, Res.bind_fault]

/-- R69: a handled read of the high byte leaves the bounds as they are, so the low byte's address faults all the same. -/
theorem popRet_low_out (hlt : (s.sp + 1).toNat < s.cfg.dataSize) (hout : s.cfg.dataSize ≤ (s.sp + 2).toNat) :
    popRet s = .fault (.dataOutOfRange (s.sp + 2)) := by
  rw [popRet, memRead_in hlt, Res.bind_next]
  exact congrArg (Res.bind · _) (memRead_out (s := s.afterRead (s.sp + 1)) hout)

theorem exec_ret_of_popRet {ret : Word} {u : State} (h : popRet s = .next (ret, u)) :
    exec .ret s = .next (u.retire ret 4) := by
  rw [exec, execRet, h, Res.bind_next]

theorem exec_reti_of_popRet {ret : Word} {u : State} (h : popRet s = .next (ret, u)) :
    exec .reti s = .next (((u.putI true).emit .intExit).retire ret 4) := by
  rw [exec, execReti, returnFromInterrupt, h, Res.bind_next]
  rfl

theorem returns_fault {e : Fault} (h : popRet s = .fault e) : exec .ret s = .fault e ∧ exec .reti s = .fault e := by
  refine ⟨?_, ?_⟩
  · rw [exec, execRet, h, Res.bind_fault]
  · rw [exec, execReti, returnFromInterrupt, h, Res.bind_fault]

end pop

/-- Settles O17: the pop by `popRet_of_plain`, `RETI`'s byte of `SREG` by `byte_putI`; or the fault of the pop. -/
theorem returnsPopTheProgramCounter : Obligations.ReturnsPopTheProgramCounter := by
  intro s hw
  refine ⟨fun hlt hlt' hc hc' => ?_, fun hout => returns_fault (popRet_high_out hout),
    fun hlt hout => returns_fault (popRet_low_out hlt hout)⟩
  have hpop := popRet_of_plain hlt hlt' hc hc'
  have hview : (s.setSp (s.sp + 2)).byte = poppedView s := byte_setSp_eq_assignPair hw _
  refine ⟨hview ▸ finishes_of_retire rfl (exec_ret_of_popRet hpop), ((s.setSp (s.sp + 2)).putI true).dm,
    exec_reti_of_popRet hpop, fun a => ?_⟩
  rw [← hview]
  exact congrFun (byte_putI (State.wf_setSp hw _) true) a

/-! ### A return after a push -/

/-- `t` holds `ret` on the stack as a push from `s` left it. -/
structure HoldsReturn (s t : State) (ret : Word) : Prop where
  cfg : t.cfg = s.cfg
  sp : t.sp = s.sp - 2
  high : t.byte (s.sp - 1).toNat = ret.hi
  low : t.byte s.sp.toNat = ret.lo

section undo

variable {s t : State} {ret : Word}

theorem toNat_ne_toNat_sub_one (a : Word) : a.toNat ≠ (a - 1).toNat := by
  bv_omega

/-- R301: the last write first. -/
theorem pushedView_eq (a : Nat) : pushedView s ret a =
    if a = sphAddr then (s.sp - 2).hi else if a = splAddr then (s.sp - 2).lo
    else if a = (s.sp - 1).toNat then ret.hi else if a = s.sp.toNat then ret.lo else s.byte a := rfl

/-- Apart from `SP` and the stack bytes a push changes nothing. -/
theorem pushedView_of_ne {a : Nat} (hspl : a ≠ splAddr) (hsph : a ≠ sphAddr) (hlow : a ≠ s.sp.toNat)
    (hhigh : a ≠ (s.sp - 1).toNat) : pushedView s ret a = s.byte a := by
  rw [pushedView_eq, if_neg hsph, if_neg hspl, if_neg hhigh, if_neg hlow]

theorem holdsReturn_pushed (hw : s.dm.wf = true) (hclear : StackClear s) : HoldsReturn s (s.pushed ret) ret := by
  obtain ⟨-, -, hl, hh, hl', hh'⟩ := hclear
  refine ⟨rfl, State.sp_setSp (State.wf_setByte (State.wf_setByte hw _ _) _ _) _, ?_, ?_⟩
  · rw [byte_pushed hw, pushedView_eq, if_neg hh', if_neg hl', if_pos rfl]
  · rw [byte_pushed hw, pushedView_eq, if_neg hh, if_neg hl, if_neg (toNat_ne_toNat_sub_one _), if_pos rfl]

/-- R302 after R301: the pop gives back the pushed address and the old `SP`. -/
theorem popRet_of_holdsReturn (hlow : s.Reaches s.sp) (hhigh : s.Reaches (s.sp - 1)) (h : HoldsReturn s t ret) :
    popRet t = .next (ret, t.setSp s.sp) := by
  obtain ⟨hcfg, hsp, hhi, hlo⟩ := h
  obtain ⟨hlt, hc, -, -⟩ := hlow
  obtain ⟨hlt', hc', -, -⟩ := hhigh
  have h1 : t.sp + 1 = s.sp - 1 := by rw [hsp]; bv_omega
  have h2 : t.sp + 2 = s.sp := by rw [hsp]; bv_omega
  have hpop := popRet_of_plain (s := t) (by rwa [h1, hcfg]) (by rwa [h2, hcfg]) (by rwa [h1, hcfg]) (by rwa [h2, hcfg])
  rwa [poppedAddress, h1, h2, hhi, hlo, State.hi_append_lo] at hpop

/-- W4: a call that pushes `ret`, then `RET`. -/
theorem ret_after_call {i : Instr} {target : State → Word} {n : Nat} (hw : s.dm.wf = true) (hclear : StackClear s)
    (h : exec i s = (pushRet s ret).bind fun u => .next (u.retire (target u) n)) :
    ∃ t u : State, exec i s = .next t ∧ exec .ret t = .next u ∧ u.pc = ret ∧ u.sp = s.sp := by
  obtain ⟨hcfg, hsp, hhi, hlo⟩ := holdsReturn_pushed (ret := ret) hw hclear
  obtain ⟨hlow, hhigh, -⟩ := hclear
  rw [pushRet_of_reaches hlow hhigh, Res.bind_next] at h
  have hholds : HoldsReturn s ((s.pushed ret).retire (target (s.pushed ret)) n) ret := ⟨hcfg, hsp, hhi, hlo⟩
  have hret := exec_ret_of_popRet (popRet_of_holdsReturn hlow hhigh hholds)
  have hwt : ((s.pushed ret).retire (target (s.pushed ret)) n).dm.wf = true := State.wf_pushed hw ret
  exact ⟨_, _, h, hret, rfl, State.sp_setSp hwt s.sp⟩

end undo

/-- Settles O18: all are `ret_after_call`. -/
theorem callThenReturnComesBack : Obligations.CallThenReturnComesBack :=
  fun _ _ _ hw hclear => ⟨ret_after_call (target := fun _ => _) hw hclear rfl,
    ret_after_call (target := fun u => u.pair Pointer.z.low) hw hclear rfl,
    ret_after_call (target := fun _ => _) hw hclear rfl⟩

/-! ### Interrupt entry -/

/-- R506 in plain storage: `pc` pushed, I cleared, control at twice the vector, the request cleared, the core awake. -/
def State.entered (s : State) : State :=
  { ((((s.pushed s.pc).putI false).emit (.irqAck s.intPrio)).emit (.intEntry s.intPrio)) with
    pc := BitVec.ofNat 16 (2 * s.intPrio.toNat)
    intPending := clearPending s.intPending s.intPrio.toNat
    intPrio := recompute s.cfg.intRecompute (clearPending s.intPending s.intPrio.toNat)
    asleep := false }

section entry

variable {s : State}

theorem takeInterrupt_of_reaches (hlow : s.Reaches s.sp) (hhigh : s.Reaches (s.sp - 1)) :
    takeInterrupt s = .next s.entered := by
  rw [takeInterrupt, pushRet_of_reaches hlow hhigh, Res.bind_next]
  rfl

theorem State.wf_entered (hw : s.dm.wf = true) : s.entered.dm.wf = true := wf_setFlags (wf_pushed hw _) _

/-- R506, R509: the bytes after an entry. -/
theorem byte_entered (hw : s.dm.wf = true) :
    s.entered.byte = assign (pushedView s s.pc) sregAddr (pushedView s s.pc sregAddr &&& 0x7F) := by
  rw [← byte_pushed hw]
  exact byte_putI (State.wf_pushed hw _) false

theorem byte_entered_of_ne (hw : s.dm.wf = true) {a : Nat} (h : a ≠ sregAddr) :
    s.entered.byte a = (s.pushed s.pc).byte a := by
  rw [byte_entered hw, assign, if_neg h, byte_pushed hw]

theorem holdsReturn_entered (hw : s.dm.wf = true) (hclear : StackClear s) (hlow : s.sp.toNat ≠ sregAddr)
    (hhigh : (s.sp - 1).toNat ≠ sregAddr) : HoldsReturn s s.entered s.pc := by
  obtain ⟨hcfg, hsp, hhi, hlo⟩ := holdsReturn_pushed (ret := s.pc) hw hclear
  refine ⟨hcfg, ?_, ?_, ?_⟩
  · rwa [State.sp, byte_entered_of_ne hw (by decide), byte_entered_of_ne hw (by decide)]
  · rwa [byte_entered_of_ne hw hhigh]
  · rwa [byte_entered_of_ne hw hlow]

/-- R510: `SREG` after an entry is as before but for I. -/
theorem sreg_entered (hw : s.dm.wf = true) (hlow : s.sp.toNat ≠ sregAddr) (hhigh : (s.sp - 1).toNat ≠ sregAddr) :
    s.entered.sreg = s.sreg &&& 0x7F := by
  have hkept : pushedView s s.pc sregAddr = s.sreg := pushedView_of_ne (by decide) (by decide) hlow.symm hhigh.symm
  rw [State.sreg, byte_entered hw, assign, if_pos rfl, hkept]

/-- R509, R510: with I and the old `SP` put back after an entry, every byte but the two stack bytes is as before. -/
theorem byte_entered_restored (hw : s.dm.wf = true) (hlow : s.sp.toNat ≠ sregAddr) (hhigh : (s.sp - 1).toNat ≠ sregAddr)
    (hi : s.flags.i = true) {a : Nat} (ha : a ≠ s.sp.toNat) (ha' : a ≠ (s.sp - 1).toNat) :
    ((s.entered.setSp s.sp).putI true).byte a = s.byte a := by
  have hwt := State.wf_entered hw
  rw [byte_putI (State.wf_setSp hwt _), assign, if_pos rfl]
  by_cases hsreg : a = sregAddr
  · have hsreg' : (s.entered.setSp s.sp).sreg = s.entered.sreg := State.byte_setSp hwt sregAddr s.sp
    rw [if_pos hsreg, hsreg', sreg_entered hw hlow hhigh, and_or_bit7_eq_self hi, hsreg, State.sreg]
  rw [if_neg hsreg, State.byte_setSp hwt]
  by_cases hsph : a = sphAddr
  · rw [if_pos hsph, hsph, State.sp]
    exact BitVec.extractLsb'_append_eq_left
  by_cases hspl : a = splAddr
  · rw [if_neg hsph, if_pos hspl, hspl, State.sp]
    exact BitVec.extractLsb'_append_eq_right
  rw [if_neg hsph, if_neg hspl, byte_entered_of_ne hw hsreg, byte_pushed hw, pushedView_of_ne hspl hsph ha ha']

end entry

/-- Settles O53: the entry leaves the return address, `RETI` pops it, and the bytes by `byte_entered_restored`. -/
theorem entryThenRetiResumes : Obligations.EntryThenRetiResumes := by
  intro s hw hclear hlow hhigh hi hp
  have hholds := holdsReturn_entered hw hclear hlow hhigh
  obtain ⟨hreach, hreach', hl, hh, hl', hh'⟩ := hclear
  have hentry := (service_taken hi hp).trans (takeInterrupt_of_reaches hreach hreach')
  have hpop := popRet_of_holdsReturn hreach hreach' hholds
  have hbyte {a : Nat} (ha : a ≠ s.sp.toNat) (ha' : a ≠ (s.sp - 1).toNat) :=
    byte_entered_restored hw hlow hhigh hi ha ha'
  refine ⟨_, _, hentry, exec_reti_of_popRet hpop, rfl, ?_, hbyte hlow.symm hhigh.symm, fun a => hbyte⟩
  exact congrArg₂ (· ++ ·) (hbyte hh.symm hh'.symm) (hbyte hl.symm hl'.symm)

end Sys2Proof.Machine
end

section
/-! PROOFS. The register moves, the indirect loads and stores, the program loads and the exchanges through Z (spec/45 R360 to
R408, R420 to R423): the bytes a pointer update leaves, then each shape with its one completed outcome and its fault. -/

namespace Sys2Proof.Machine

/-! ### Pairs -/

theorem State.lo_pair (s : State) (d : Reg) : (s.pair d).lo = s.byte d.val := BitVec.extractLsb'_append_eq_right

theorem State.hi_pair (s : State) (d : Reg) : (s.pair d).hi = s.byte (d.val + 1) := BitVec.extractLsb'_append_eq_left

theorem byte_setPair_eq_assignPair {s : State} (hw : s.dm.wf = true) (d : Reg) (v : Word) :
    (s.setPair d v).byte = assignPair s.byte d.val v := by
  rw [State.setPair, byte_setByte_eq_assign (State.wf_setByte hw _ _), byte_setByte_eq_assign hw]
  rfl

/-! ### Addresses and pointer updates -/

/-- R361: the displacement is added modulo 2^16. -/
theorem effectiveAddress_disp (s : State) (p : Pointer) (q : BitVec 6) :
    effectiveAddress s p (.disp q) = BitVec.ofNat 16 ((s.pair p.low).toNat + q.toNat) := by
  apply BitVec.eq_of_toNat_eq
  simp [effectiveAddress]

theorem effectiveAddress_plain (s : State) (p : Pointer) :
    effectiveAddress s p .plain = BitVec.ofNat 16 ((s.pair p.low).toNat + 0) := by
  simp [effectiveAddress]

/-- R362: a form that updates its pointer overlaps with the pointer's two registers only. -/
theorem overlaps_of_ne {p : Pointer} {d : Reg} (hlow : d.val ≠ p.low.val) (hhigh : d.val ≠ p.low.val + 1) (f : Form) :
    overlaps p f d = false := by
  simp [overlaps, hlow, hhigh]

/-- R360: the bytes after the pointer update that precedes the access at `a`. -/
def Form.viewBefore (f : Form) (p : Pointer) (a : Word) (view : Nat → Byte) : Nat → Byte :=
  match f with
  | .preDec => assignPair view p.low.val a
  | .plain | .postInc | .disp _ => view

/-- R360: the bytes after the pointer update that follows the access at `a`. -/
def Form.viewAfter (f : Form) (p : Pointer) (a : Word) (view : Nat → Byte) : Nat → Byte :=
  match f with
  | .postInc => assignPair view p.low.val (a + 1)
  | .plain | .preDec | .disp _ => view

@[simp] theorem updateBefore_cfg (s : State) (p : Pointer) (a : Word) (f : Form) : (updateBefore s p a f).cfg = s.cfg := by
  cases f <;> rfl

section update

variable {s : State} (hw : s.dm.wf = true)
include hw

theorem wf_updateBefore (p : Pointer) (a : Word) (f : Form) : (updateBefore s p a f).dm.wf = true :=
  (DataStep.refl.then_updateBefore p a f).wf hw

theorem wf_updateAfter (p : Pointer) (a : Word) (f : Form) : (updateAfter s p a f).dm.wf = true :=
  (DataStep.refl.then_updateAfter p a f).wf hw

theorem byte_updateBefore (p : Pointer) (a : Word) (f : Form) :
    (updateBefore s p a f).byte = f.viewBefore p a s.byte := by
  cases f with
  | preDec => exact byte_setPair_eq_assignPair hw _ _
  | plain | postInc | disp => rfl

theorem byte_updateAfter (p : Pointer) (a : Word) (f : Form) :
    (updateAfter s p a f).byte = f.viewAfter p a s.byte := by
  cases f with
  | postInc => exact byte_setPair_eq_assignPair hw _ _
  | plain | preDec | disp => rfl

/-- Outside the overlapping forms the pointer update leaves the data register. -/
theorem reg_updateBefore {p : Pointer} {f : Form} {r : Reg} (h : overlaps p f r = false) (a : Word) :
    (updateBefore s p a f).reg r = s.reg r := by
  cases f with
  | preDec =>
    obtain ⟨hlow, hhigh⟩ : r.val ≠ p.low.val ∧ r.val ≠ p.low.val + 1 := by simpa [overlaps, Form.updates] using h
    exact (State.byte_setPair hw p.low r.val a).trans (by rw [if_neg hhigh, if_neg hlow, State.reg])
  | plain | postInc | disp => rfl

end update

/-! ### Program bytes -/

theorem toNat_shiftRight_one (z : Word) : (z >>> 1).toNat = z.toNat / 2 := Nat.shiftRight_one z.toNat

theorem shiftRight_one_eq_half (z : Word) : z >>> 1 = BitVec.ofNat 16 (z.toNat / 2) := by
  bv_omega

/-- R400: the byte of the word at `z / 2`, the high one where `z` is odd. -/
theorem lpmByte_in {s : State} {z : Word} (h : z.toNat / 2 < s.cfg.romWords) :
    lpmByte s z = .next
      (if z.toNat % 2 = 1 then Word.hi (s.rom.get (z.toNat / 2)) else Word.lo (s.rom.get (z.toNat / 2))) := by
  have ha := toNat_shiftRight_one z
  have hodd : z[0] = decide (z.toNat % 2 = 1) := by
    simp [← BitVec.getLsbD_eq_getElem, BitVec.getLsbD]
  simp only [lpmByte, pmRead_in (ha ▸ h), Res.bind_next, ha, hodd, decide_eq_true_eq]

theorem lpmByte_out {s : State} {z : Word} (h : s.cfg.romWords ≤ z.toNat / 2) :
    lpmByte s z = .fault (.programOutOfRange (BitVec.ofNat 16 (z.toNat / 2))) := by
  have ha := toNat_shiftRight_one z
  rw [lpmByte, pmRead_out (ha ▸ h), Res.bind_fault, shiftRight_one_eq_half]

/-! ### The instruction shapes

The pointer forms stand outside the overlaps of R362; `a` names the effective address. -/

section outcomes

variable {s : State} {p : Pointer} {f : Form} {d : Reg} {a : Word}

theorem loadIndirect_of_plain (ho : overlaps p f d = false) (ha : effectiveAddress s p f = a)
    (hlt : a.toNat < s.cfg.dataSize) (hc : s.cfg.readChained a.toNat = false) :
    loadIndirect s p f d = .next
      (((updateAfter (updateBefore s p a f) p a f).setReg d ((updateBefore s p a f).byte a.toNat)).retireNext 2) := by
  rw [← updateBefore_cfg s p a f] at hlt hc
  simp only [loadIndirect, ho, Bool.false_eq_true, if_false, ha, memRead_plain hlt hc, Res.bind_next]

theorem loadIndirect_out (ho : overlaps p f d = false) (ha : effectiveAddress s p f = a)
    (hout : s.cfg.dataSize ≤ a.toNat) : loadIndirect s p f d = .fault (.dataOutOfRange a) := by
  rw [← updateBefore_cfg s p a f] at hout
  simp only [loadIndirect, ho, Bool.false_eq_true, if_false, ha, memRead_out hout, Res.bind_fault]

theorem storeIndirect_of_reaches (hw : s.dm.wf = true) (ho : overlaps p f d = false) (ha : effectiveAddress s p f = a)
    (h : s.Reaches a) : storeIndirect s p f d = .next
      ((updateAfter ((updateBefore s p a f).setByte a.toNat (s.reg d)) p a f).retireNext 2) := by
  obtain ⟨hlt, -, hc, hv⟩ := h
  rw [← updateBefore_cfg s p a f] at hlt hc hv
  simp only [storeIndirect, ho, Bool.false_eq_true, if_false, ha, reg_updateBefore hw ho, memWrite_plain hlt hc hv,
    Res.bind_next]

theorem storeIndirect_out (hw : s.dm.wf = true) (ho : overlaps p f d = false) (ha : effectiveAddress s p f = a)
    (hout : s.cfg.dataSize ≤ a.toNat) (hv : s.cfg.callouts.contains a.toNat = false) :
    storeIndirect s p f d = .fault (.dataOutOfRange a) := by
  rw [← updateBefore_cfg s p a f] at hout hv
  simp only [storeIndirect, ho, Bool.false_eq_true, if_false, ha, reg_updateBefore hw ho, memWrite_out hout hv,
    Res.bind_fault]

theorem loadProgram_eq (ho : overlaps .z f d = false) : loadProgram s f d =
    (lpmByte s (s.pair 30)).bind fun v => .next (((updateAfter s .z (s.pair 30) f).setReg d v).retireNext 3) := by
  rw [loadProgram, ho, if_neg Bool.false_ne_true]
  rfl

theorem exchangeZ_of_reaches (h : s.Reaches (s.pair 30)) (g : Byte → Byte → Byte) : exchangeZ s d g = .next
    (((s.setByte (s.pair 30).toNat (g (s.byte (s.pair 30).toNat) (s.reg d))).setReg d
      (s.byte (s.pair 30).toNat)).retireNext 2) := by
  obtain ⟨hlt, hr, hc, hv⟩ := h
  simp only [exchangeZ, Pointer.low, memRead_plain hlt hr, memWrite_plain hlt hc hv, Res.bind_next]

end outcomes

section shapes

variable {i : Instr} {s : State} {d : Reg}

/-- `finishes_of_retire` where `pc` is still that of `s`. -/
theorem finishes_of_retireNext {u : State} {n : Nat} (hu : u = { s with dm := u.dm })
    (h : exec i s = .next (u.retireNext n)) : Finishes i s (s.pc + 1) n u.byte := by
  have hpc : u.pc = s.pc := by rw [hu]
  rw [State.retireNext, hpc] at h
  exact finishes_of_retire hu h

variable (hw : s.dm.wf = true)
include hw

theorem loadsFrom_of_exec {p : Pointer} {f : Form} {a : Word} (ho : overlaps p f d = false)
    (ha : effectiveAddress s p f = a) (h : exec i s = loadIndirect s p f d) :
    LoadsFrom i s d a (f.viewBefore p a s.byte) (f.viewAfter p a (f.viewBefore p a s.byte)) := by
  have hwb := wf_updateBefore hw p a f
  refine ⟨fun hlt hc => ?_, fun hout => h.trans (loadIndirect_out ho ha hout)⟩
  rw [← byte_updateBefore hw, ← byte_updateAfter hwb, ← byte_setByte_eq_assign (wf_updateAfter hwb p a f)]
  exact finishes_of_retireNext (by cases f <;> rfl) (h.trans (loadIndirect_of_plain ho ha hlt hc))

theorem storesTo_of_exec {p : Pointer} {f : Form} {a : Word} (ho : overlaps p f d = false)
    (ha : effectiveAddress s p f = a) (h : exec i s = storeIndirect s p f d) :
    StoresTo i s a (f.viewAfter p a (assign (f.viewBefore p a s.byte) a.toNat (s.reg d))) := by
  have hwb := wf_updateBefore hw p a f
  refine ⟨fun hreach => ?_, fun hout hv => h.trans (storeIndirect_out hw ho ha hout hv)⟩
  rw [← byte_updateBefore hw, ← byte_setByte_eq_assign hwb, ← byte_updateAfter (State.wf_setByte hwb _ _)]
  exact finishes_of_retireNext (by cases f <;> rfl) (h.trans (storeIndirect_of_reaches hw ho ha hreach))

theorem loadsProgramByte_of_exec {f : Form} (ho : overlaps .z f d = false) (h : exec i s = loadProgram s f d) :
    LoadsProgramByte i s d (f.viewAfter .z (s.pair 30) s.byte) := by
  rw [loadProgram_eq ho] at h
  refine ⟨fun hin => ?_, fun hout => ?_⟩
  · rw [lpmByte_in hin, Res.bind_next] at h
    rw [← byte_updateAfter hw, ← byte_setByte_eq_assign (wf_updateAfter hw _ _ f)]
    exact finishes_of_retireNext (by cases f <;> rfl) h
  · rw [h, lpmByte_out hout, Res.bind_fault]

/-- R420 to R423: `g` combines the old byte and the register. -/
theorem exchangesAtZ_of_exec (g : Byte → Byte → Byte) (h : exec i s = exchangeZ s d g) :
    ExchangesAtZ i s d (g (s.byte (s.pair 30).toNat) (s.reg d)) := by
  refine ⟨fun hreach => ?_, fun hout => ?_⟩
  · rw [← byte_setByte_eq_assign hw, ← byte_setByte_eq_assign (State.wf_setByte hw _ _)]
    exact finishes_of_retireNext rfl (h.trans (exchangeZ_of_reaches hreach g))
  · rw [h, exchangeZ, Pointer.low, memRead_out hout, Res.bind_fault]

end shapes

/-! ### The instructions -/

/-- Settles O24: all are `loadIndirect` in a form that leaves the pointer; `LD Y` and `LD Z` have the displacement 0. -/
theorem plainIndirectLoads : Obligations.PlainIndirectLoads := by
  intro s d q hw
  have hdisp := effectiveAddress_disp s
  exact ⟨loadsFrom_of_exec hw (f := .plain) rfl (effectiveAddress_plain s .x) rfl,
    loadsFrom_of_exec hw rfl (hdisp .y 0) rfl, loadsFrom_of_exec hw rfl (hdisp .y q) rfl,
    loadsFrom_of_exec hw rfl (hdisp .z 0) rfl, loadsFrom_of_exec hw rfl (hdisp .z q) rfl⟩

/-- Settles O25: all are `loadIndirect`, with the pointer update after the read or before it. -/
theorem movingIndirectLoads : Obligations.MovingIndirectLoads := by
  intro s d hw
  have hmoving (p : Pointer) (f : Form) {i : Instr} (hlow : d.val ≠ p.low.val) (hhigh : d.val ≠ p.low.val + 1)
      (h : exec i s = loadIndirect s p f d) := loadsFrom_of_exec hw (overlaps_of_ne hlow hhigh f) rfl h
  exact ⟨fun hl hh => ⟨hmoving .x .postInc hl hh rfl, hmoving .x .preDec hl hh rfl⟩,
    fun hl hh => ⟨hmoving .y .postInc hl hh rfl, hmoving .y .preDec hl hh rfl⟩,
    fun hl hh => ⟨hmoving .z .postInc hl hh rfl, hmoving .z .preDec hl hh rfl⟩⟩

/-- Settles O26: all are `storeIndirect` in a form that leaves the pointer; `ST Y` and `ST Z` have the displacement 0. -/
theorem plainIndirectStores : Obligations.PlainIndirectStores := by
  intro s r q hw
  have hdisp := effectiveAddress_disp s
  exact ⟨storesTo_of_exec hw (f := .plain) rfl (effectiveAddress_plain s .x) rfl,
    storesTo_of_exec hw rfl (hdisp .y 0) rfl, storesTo_of_exec hw rfl (hdisp .y q) rfl,
    storesTo_of_exec hw rfl (hdisp .z 0) rfl, storesTo_of_exec hw rfl (hdisp .z q) rfl⟩

/-- Settles O27: all are `storeIndirect`, with the pointer update after the write or before it. -/
theorem movingIndirectStores : Obligations.MovingIndirectStores := by
  intro s r hw
  have hmoving (p : Pointer) (f : Form) {i : Instr} (hlow : r.val ≠ p.low.val) (hhigh : r.val ≠ p.low.val + 1)
      (h : exec i s = storeIndirect s p f r) := storesTo_of_exec hw (overlaps_of_ne hlow hhigh f) rfl h
  exact ⟨fun hl hh => ⟨hmoving .x .postInc hl hh rfl, hmoving .x .preDec hl hh rfl⟩,
    fun hl hh => ⟨hmoving .y .postInc hl hh rfl, hmoving .y .preDec hl hh rfl⟩,
    fun hl hh => ⟨hmoving .z .postInc hl hh rfl, hmoving .z .preDec hl hh rfl⟩⟩

/-- Settles O29: all are `loadProgram`. -/
theorem programMemoryLoads : Obligations.ProgramMemoryLoads := by
  refine fun s d hw => ⟨loadsProgramByte_of_exec hw (f := .plain) rfl rfl,
    loadsProgramByte_of_exec hw (f := .plain) rfl rfl, loadsProgramByte_of_exec hw (f := .plain) rfl rfl,
    loadsProgramByte_of_exec hw (f := .plain) rfl rfl, fun hlow hhigh => ?_⟩
  have ho : overlaps .z .postInc d = false := overlaps_of_ne hlow hhigh _
  exact ⟨loadsProgramByte_of_exec hw ho rfl, loadsProgramByte_of_exec hw ho rfl⟩

/-- Settles O34: all are `exchangeZ`. -/
theorem readModifyWriteThroughZ : Obligations.ReadModifyWriteThroughZ :=
  fun _ _ hw => ⟨exchangesAtZ_of_exec hw (fun _ reg => reg) rfl, exchangesAtZ_of_exec hw (· ||| ·) rfl,
    exchangesAtZ_of_exec hw (fun old reg => old &&& ~~~reg) rfl, exchangesAtZ_of_exec hw (· ^^^ ·) rfl⟩

/-- Settles O22: `MOVW` writes both halves of the pair it read first. -/
theorem registerMoves : Obligations.RegisterMoves := by
  refine fun s d r k hw => ⟨writesReg_of_exec hw rfl, writesReg_of_exec hw rfl, writesReg_of_exec hw rfl, ?_⟩
  have hfin : Finishes (.movw d r) s (s.pc + 1) 1 (s.setPair d (s.pair r)).byte := finishes_of_retire rfl rfl
  rwa [byte_setPair_eq_assignPair hw, assignPair, State.lo_pair, State.hi_pair] at hfin

end Sys2Proof.Machine
end

section
/-! PROOFS. `PUSH` and `POP` (spec/45 R412, R413): each has one outcome in plain storage, and a pop after a push puts `SP` back
and finds the byte pushed. -/

namespace Sys2Proof.Machine

variable {s : State}

/-! ### One push, one pop -/

/-- R412 in plain storage: the stack byte written and `SP` lowered by 1. -/
def State.pushedReg (s : State) (r : Reg) : State := (s.setByte s.sp.toNat (s.reg r)).setSp (s.sp - 1)

theorem exec_push_of_reaches (h : s.Reaches s.sp) (r : Reg) : exec (.push r) s = .next ((s.pushedReg r).retireNext 2) := by
  obtain ⟨hlt, -, hc, hv⟩ := h
  rw [exec, execPush, memWrite_plain hlt hc hv, Res.bind_next]
  rfl

/-- R413 where no read chain takes the read: the byte is read after `SP` is raised. -/
theorem exec_pop_of_plain (hlt : (s.sp + 1).toNat < s.cfg.dataSize) (hc : s.cfg.readChained (s.sp + 1).toNat = false)
    (d : Reg) : exec (.pop d) s =
      .next (((s.setSp (s.sp + 1)).setReg d ((s.setSp (s.sp + 1)).byte (s.sp + 1).toNat)).retireNext 2) := by
  rw [exec, execPop, memRead_plain (s := s.setSp (s.sp + 1)) hlt hc, Res.bind_next]

/-- Settles O32: the push and the pop in plain storage, or the fault of their access. -/
theorem pushAndPop : Obligations.PushAndPop := by
  refine fun s d r hw => ⟨fun h => ?_, fun hout hv => ?_, fun hlt hc => ?_, fun hout => ?_⟩
  · rw [← byte_setByte_eq_assign hw, ← byte_setSp_eq_assignPair (State.wf_setByte hw _ _)]
    exact finishes_of_retire rfl (exec_push_of_reaches h r)
  · rw [exec, execPush, memWrite_out hout hv, Res.bind_fault]
  · rw [← byte_setSp_eq_assignPair hw, ← byte_setByte_eq_assign (State.wf_setSp hw _)]
    exact finishes_of_retire rfl (exec_pop_of_plain hlt hc d)
  · rw [exec, execPop, memRead_out (s := s.setSp (s.sp + 1)) hout, Res.bind_fault]

/-! ### A pop after a push -/

/-- `SP` written and put back changes no byte. -/
theorem byte_setSp_restored (hw : s.dm.wf = true) (v : Word) (a : Nat) : ((s.setSp v).setSp s.sp).byte a = s.byte a := by
  rw [State.byte_setSp (State.wf_setSp hw v), State.byte_setSp hw]
  by_cases hh : a = sphAddr
  · rw [if_pos hh, hh, State.sp]
    exact BitVec.extractLsb'_append_eq_left
  by_cases hl : a = splAddr
  · rw [if_neg hh, if_pos hl, hl, State.sp]
    exact BitVec.extractLsb'_append_eq_right
  rw [if_neg hh, if_neg hl, if_neg hh, if_neg hl]

/-- A byte written apart from `SPL` and `SPH` leaves `SP`. -/
theorem sp_setByte_of_ne (hw : s.dm.wf = true) {a : Nat} (hl : a ≠ splAddr) (hh : a ≠ sphAddr) (v : Byte) :
    (s.setByte a v).sp = s.sp := by
  rw [State.sp, State.byte_setByte hw, State.byte_setByte hw, if_neg hh.symm, if_neg hl.symm, State.sp]

/-- R412: with `SP` put back after a push, the stack byte is the one pushed and every other byte is as before. -/
theorem byte_pushedReg_restored (hw : s.dm.wf = true) (hl : s.sp.toNat ≠ splAddr) (hh : s.sp.toNat ≠ sphAddr) (r : Reg)
    (a : Nat) : ((s.pushedReg r).setSp s.sp).byte a = if a = s.sp.toNat then s.reg r else s.byte a := by
  have h := byte_setSp_restored (State.wf_setByte hw s.sp.toNat (s.reg r)) (s.sp - 1) a
  rwa [sp_setByte_of_ne hw hl hh, State.byte_setByte hw] at h

/-- R413 after R412: the pop reads the byte pushed and puts `SP` back. -/
theorem exec_pop_of_pushedReg (hw : s.dm.wf = true) (hreach : s.Reaches s.sp) (hl : s.sp.toNat ≠ splAddr)
    (hh : s.sp.toNat ≠ sphAddr) (d r : Reg) : exec (.pop d) ((s.pushedReg r).retireNext 2) =
      .next (((((s.pushedReg r).retireNext 2).setSp s.sp).setReg d (s.reg r)).retireNext 2) := by
  obtain ⟨hlt, hc, -⟩ := hreach
  have hlow : ((s.pushedReg r).retireNext 2).sp = s.sp - 1 := State.sp_setSp (State.wf_setByte hw _ _) _
  have hsp : ((s.pushedReg r).retireNext 2).sp + 1 = s.sp := by rw [hlow, BitVec.sub_add_cancel]
  have hpop := exec_pop_of_plain (s := (s.pushedReg r).retireNext 2) (by rwa [hsp]) (by rwa [hsp]) d
  have hread : (((s.pushedReg r).retireNext 2).setSp s.sp).byte s.sp.toNat = s.reg r :=
    (byte_pushedReg_restored hw hl hh r s.sp.toNat).trans (if_pos rfl)
  rwa [hsp, hread] at hpop

/-- Settles O33: with `SP` put back the pop reads the byte the push stored; `R[d]` is none of the bytes of `SP`. -/
theorem pushThenPopCopies : Obligations.PushThenPopCopies := by
  intro s d r hw hreach hl hh
  have hwt : ((s.pushedReg r).setSp s.sp).dm.wf = true := State.wf_setSp (State.wf_setSp (State.wf_setByte hw _ _) _) _
  have hkept {a : Nat} (ha : a ≠ s.sp.toNat) (hd : a ≠ d.val) :
      (((s.pushedReg r).setSp s.sp).setReg d (s.reg r)).byte a = s.byte a := by
    rw [State.byte_setReg hwt, if_neg hd, byte_pushedReg_restored hw hl hh, if_neg ha]
  have hd := d.isLt
  refine ⟨_, _, exec_push_of_reaches hreach r, exec_pop_of_pushedReg hw hreach hl hh d r, ?_, ?_, fun a => hkept⟩
  · exact (State.byte_setReg hwt d d.val _).trans (if_pos rfl)
  · exact congrArg₂ (· ++ ·) (hkept hh.symm (by unfold sphAddr; omega)) (hkept hl.symm (by unfold splAddr; omega))

end Sys2Proof.Machine
end

section
/-! PROOFS. Which instructions are refused, and how (spec/45 R362, decision D16): the memory operations are never refused, so
only the overlap test of the three pointer shapes is. -/

namespace Sys2Proof.Machine

/-! ### Operations that are never refused -/

/-- The operation answers a value or a fault. -/
def Res.NeverRefused {α : Type} (r : Res α) : Prop := ∀ e : Refusal, r ≠ .refused e

namespace Res.NeverRefused

theorem next {α : Type} (a : α) : NeverRefused (.next a : Res α) := fun _ h => nomatch h

theorem bind {α β : Type} {r : Res α} {f : α → Res β} (hr : NeverRefused r) (hf : ∀ a, NeverRefused (f a)) :
    NeverRefused (r.bind f) := by
  intro e h
  rcases Res.bind_eq_refused.mp h with h | ⟨a, -, h⟩
  · exact hr e h
  · exact hf a e h

/-- A sequence whose last part answers. -/
theorem bind_next {α β : Type} {r : Res α} {f : α → β} (hr : NeverRefused r) :
    NeverRefused (r.bind fun a => .next (f a)) :=
  bind hr fun a => next (f a)

end Res.NeverRefused

section operations

variable {s : State}

theorem exchangeZ_neverRefused (d : Reg) (f : Byte → Byte → Byte) : Res.NeverRefused (exchangeZ s d f) :=
  .bind (memRead_not_refused _ _) fun _ => .bind_next (memWrite_not_refused _ _ _)

theorem modifyIo_neverRefused (a : BitVec 5) (f : Byte → Byte) : Res.NeverRefused (modifyIo s a f) :=
  .bind (memRead_not_refused _ _) fun _ => .bind_next (memWrite_not_refused _ _ _)

theorem skip_neverRefused (cond : Bool) : Res.NeverRefused (skip s cond) := by
  cases cond with
  | true => exact .bind_next (pmRead_not_refused _ _)
  | false => exact .next _

theorem branch_neverRefused (cond : Bool) (k : BitVec 7) : Res.NeverRefused (branch s cond k) := by
  cases cond with
  | true => exact .next _
  | false => exact .next _

theorem lpmByte_neverRefused (z : Word) : Res.NeverRefused (lpmByte s z) := .bind_next (pmRead_not_refused _ _)

end operations

/-! ### The pointer shapes -/

section shapes

variable {i : Instr} {s : State} {p : Pointer} {f : Form} {d : Reg} {e : Refusal}

/-- R362: what an overlap test in front of an operation refuses. -/
theorem refused_iff_of_overlap_test {b : Bool} {r : Res State} (hr : Res.NeverRefused r) :
    (if b then .refused .pointerOverlap else r) = (.refused e : Res State) ↔ e = .pointerOverlap ∧ b = true := by
  cases b with
  | true => simp [eq_comm]
  | false => simpa using hr e

theorem loadIndirect_refused_iff (hi : overlapping i = overlaps p f d) :
    loadIndirect s p f d = .refused e ↔ e = .pointerOverlap ∧ overlapping i = true :=
  hi ▸ refused_iff_of_overlap_test (.bind_next (memRead_not_refused _ _))

theorem storeIndirect_refused_iff (hi : overlapping i = overlaps p f d) :
    storeIndirect s p f d = .refused e ↔ e = .pointerOverlap ∧ overlapping i = true :=
  hi ▸ refused_iff_of_overlap_test (.bind_next (memWrite_not_refused _ _ _))

theorem loadProgram_refused_iff (hi : overlapping i = overlaps .z f d) :
    loadProgram s f d = .refused e ↔ e = .pointerOverlap ∧ overlapping i = true :=
  hi ▸ refused_iff_of_overlap_test (.bind_next (lpmByte_neverRefused _))

/-- A meaning that is never refused, of an instruction that R362 does not list. -/
theorem Res.NeverRefused.refused_iff {r : Res State} (h : NeverRefused r) (hi : overlapping i = false) :
    r = .refused e ↔ e = .pointerOverlap ∧ overlapping i = true := by
  simp [hi, h e]

end shapes

/-! ### Every instruction -/

open Res.NeverRefused in
/-- R362: by the shape of its meaning, an instruction is refused where its row of the table says so. -/
theorem exec_refused_iff (i : Instr) (s : State) (e : Refusal) :
    exec i s = .refused e ↔ e = .pointerOverlap ∧ overlapping i = true := by
  cases i with dsimp only [exec]
  | ldX | ldXInc | ldXDec | ldYInc | ldYDec | lddY | ldZInc | ldZDec | lddZ => exact loadIndirect_refused_iff rfl
  | ldY => exact loadIndirect_refused_iff (p := .y) (f := .disp 0) rfl
  | ldZ => exact loadIndirect_refused_iff (p := .z) (f := .disp 0) rfl
  | stX | stXInc | stXDec | stYInc | stYDec | stdY | stZInc | stZDec | stdZ => exact storeIndirect_refused_iff rfl
  | stY => exact storeIndirect_refused_iff (p := .y) (f := .disp 0) rfl
  | stZ => exact storeIndirect_refused_iff (p := .z) (f := .disp 0) rfl
  | lpm | lpmZ | lpmZInc | elpm | elpmZ | elpmZInc => exact loadProgram_refused_iff rfl
  | lds | in_ | pop => exact (bind_next (memRead_not_refused _ _)).refused_iff rfl
  | sts | out | push => exact (bind_next (memWrite_not_refused _ _ _)).refused_iff rfl
  | rcall | icall | call => exact (bind_next (pushRet_not_refused _ _)).refused_iff rfl
  | ret | reti => exact (bind_next (popRet_not_refused _)).refused_iff rfl
  | xch | las | lac | lat => exact (exchangeZ_neverRefused _ _).refused_iff rfl
  | sbi | cbi => exact (modifyIo_neverRefused _ _).refused_iff rfl
  | cpse | sbrc | sbrs => exact (skip_neverRefused _).refused_iff rfl
  | sbic | sbis => exact (bind (memRead_not_refused _ _) fun _ => skip_neverRefused _).refused_iff rfl
  | brbs | brbc | brcs | brlo | brcc | brsh | breq | brne | brmi | brpl | brvs | brvc | brlt | brge | brhs | brhc | brts
  | brtc | brie | brid => exact (branch_neverRefused _ _).refused_iff rfl
  | _ => exact (next _).refused_iff rfl

/-- Settles O28: `exec_refused_iff`, in both directions. -/
theorem onlyOverlapsAreRefused : Obligations.OnlyOverlapsAreRefused :=
  fun i s => ⟨fun h => (exec_refused_iff i s _).mpr ⟨rfl, h⟩, fun e => (exec_refused_iff i s e).mp⟩

end Sys2Proof.Machine
end

section
/-! PROOFS. The interrupt controller (spec/60 R503 to R509): the two requests, the scan of `Recompute`, and what service
leaves. -/

namespace Sys2Proof.Machine

/-! ### The pending mask -/

/-- `clearPending` clears one bit; it clears none where the number is past the last vector. -/
theorem getLsbD_clearPending (mask : BitVec 32) (v : Nat) {j : Nat} (hj : j < 32) :
    (clearPending mask v).getLsbD j = (mask.getLsbD j && !decide (j = v)) := by
  have hbit : (1#32 <<< v).getLsbD j = decide (j = v) := by
    rw [BitVec.getLsbD_shiftLeft, BitVec.getLsbD_one, decide_eq_true hj]
    by_cases h : j < v <;> simp [h] <;> omega
  rw [clearPending, BitVec.getLsbD_and, BitVec.getLsbD_not, hbit, decide_eq_true hj, Bool.true_and]

/-- Settles O50: the masks are `setPending` and `clearPending`, a vector number being the same in 5 bits and in 8. -/
theorem raiseAndClearRequests : Obligations.RaiseAndClearRequests := by
  refine fun s v => ⟨⟨setPending s.intPending v.toNat, fun j _ => getLsbD_setPending _ v.isLt j, ?_⟩,
    ⟨clearPending s.intPending v.toNat, fun j hj => getLsbD_clearPending _ _ hj, ?_⟩⟩
  · rw [irqRaise, BitVec.ofNat_toNat]
  · rw [irqClear, clearVector, BitVec.toNat_setWidth_of_le (by decide)]

/-! ### The scan of `Recompute` -/

/-- A scan of an ordered list answers the first of those it could answer. -/
theorem rel_of_find?_eq_some {α : Type} {R : α → α → Prop} {p : α → Bool} {l : List α} {a b : α} (hl : l.Pairwise R)
    (ha : l.find? p = some a) (hb : b ∈ l) (hp : p b = true) : b = a ∨ R a b := by
  obtain ⟨-, before, after, rfl, hbefore⟩ := List.find?_eq_some_iff_append.mp ha
  rcases List.mem_append.mp hb with hmem | hmem
  · exact absurd hp (by simpa using hbefore b hmem)
  · obtain ⟨-, htail, -⟩ := List.pairwise_append.mp hl
    exact (List.mem_cons.mp hmem).imp_right (List.rel_of_pairwise_cons htail)

/-- R505: no pending vector is higher than the one `HighestFirst` answers. -/
theorem le_recompute_highest {mask : BitVec 32} (h : mask ≠ 0) {j : Nat} (hj : j < 32) (hb : mask.getLsbD j = true) :
    j ≤ (recompute .highestFirst mask).toNat := by
  have hscan : ∀ v, v ∈ vectors.reverse ↔ v < 32 := fun _ => List.mem_reverse.trans List.mem_range
  obtain ⟨v, e, hv, -⟩ := find_pending hscan h
  have hfirst := rel_of_find?_eq_some (List.pairwise_reverse.mpr List.pairwise_lt_range) e ((hscan j).mpr hj) hb
  simp only [recompute, e, toNat_vector hv]
  omega

/-- R505: no pending vector is lower than the one `LowestFirst` answers. -/
theorem recompute_lowest_le {mask : BitVec 32} (h : mask ≠ 0) {j : Nat} (hb : mask.getLsbD j = true) :
    (recompute .lowestFirst mask).toNat ≤ j := by
  obtain ⟨hlt, -⟩ := recompute_pending .lowestFirst h
  obtain ⟨-, hlow⟩ := (recompute_lowest_iff hlt).mp rfl
  exact Nat.le_of_not_lt fun hj => Bool.false_ne_true ((hlow j hj).symm.trans hb)

/-- Settles O51: the vector answered is pending (`recompute_pending`), and each scan meets its extreme first. -/
theorem recomputeFindsTheExtremePending : Obligations.RecomputeFindsTheExtremePending := by
  refine fun how mask => ⟨?_, fun h => ?_⟩
  · rintro rfl
    exact recompute_zero how
  · obtain ⟨hlt, hbit⟩ := recompute_pending how h
    refine ⟨hlt, hbit, fun j hj hb => ?_⟩
    cases how with
    | lowestFirst => exact recompute_lowest_le h hb
    | highestFirst => exact le_recompute_highest h hj hb

/-! ### Service -/

/-- Settles O52: nothing to serve is `service_idle`; otherwise the state after is `State.entered`, its bytes by
`byte_entered`. -/
theorem serviceTakesThePendingVector : Obligations.ServiceTakesThePendingVector := by
  refine fun s hw => ⟨service_idle, fun hi hp hlow hhigh => ?_⟩
  have hentry := (service_taken hi hp).trans (takeInterrupt_of_reaches hlow hhigh)
  exact ⟨s.entered.dm, clearPending s.intPending s.intPrio.toNat, fun j hj => getLsbD_clearPending _ _ hj, hentry,
    congrFun (byte_entered hw)⟩

end Sys2Proof.Machine
end

section
/-! PROOFS. Which instruction raises which fault, and at what address (spec/60 R520, R521). -/

namespace Sys2Proof.Machine

/-- R521: a fault that the table lists for `i`, at an address outside the data space or outside program memory. -/
inductive ListedFault (i : Instr) (c : Config) : Fault → Prop
  | data {a : Word} (listed : mayFaultData i = true) (outside : c.dataSize ≤ a.toNat) :
    ListedFault i c (.dataOutOfRange a)
  | program {a : Word} (listed : mayFaultProgram i = true) (outside : c.romWords ≤ a.toNat) :
    ListedFault i c (.programOutOfRange a)

/-- An operation of `i` faults, if it does, as R521 lists. -/
def FaultsAsListed {α : Type} (i : Instr) (c : Config) (r : Res α) : Prop := ∀ e : Fault, r = .fault e → ListedFault i c e

namespace FaultsAsListed

variable {α β : Type} {i : Instr} {c : Config}

/-! ### Sequencing -/

theorem next (a : α) : FaultsAsListed i c (.next a : Res α) := fun _ h => nomatch h

theorem refused (e : Refusal) : FaultsAsListed i c (.refused e : Res α) := fun _ h => nomatch h

theorem bind {r : Res α} {f : α → Res β} (hr : FaultsAsListed i c r)
    (hf : ∀ a, r = .next a → FaultsAsListed i c (f a)) : FaultsAsListed i c (r.bind f) := by
  intro e h
  rcases Res.bind_eq_fault.mp h with h | ⟨a, ha, h⟩
  · exact hr e h
  · exact hf a ha e h

/-- A sequence whose last part answers. -/
theorem bind_next {r : Res α} {f : α → β} (hr : FaultsAsListed i c r) :
    FaultsAsListed i c (r.bind fun a => .next (f a)) :=
  bind hr fun a _ => next (f a)

/-! ### The operations

Each is met in a state `u` that the data accesses of `i` have reached from `s`; they leave the configuration. -/

variable {s u : State}

theorem of_memRead {a : Word} (data : DataStep s u) (hi : s.cfg.dataSize ≤ a.toNat → mayFaultData i = true) :
    FaultsAsListed i s.cfg (memRead u a) := by
  rw [← data.cfg] at hi ⊢
  rcases Nat.lt_or_ge a.toNat u.cfg.dataSize with hin | hout
  · rw [memRead_in hin]
    exact next _
  · rw [memRead_out hout]
    rintro _ ⟨⟩
    exact .data (hi hout) hout

theorem of_memWrite {a : Word} {v : Byte} (data : DataStep s u)
    (hi : s.cfg.dataSize ≤ a.toNat → mayFaultData i = true) : FaultsAsListed i s.cfg (memWrite u a v) := by
  rw [← data.cfg] at hi ⊢
  rcases Nat.lt_or_ge a.toNat u.cfg.dataSize with hin | hout
  · obtain ⟨t, e⟩ := memWrite_in v hin
    rw [e]
    exact next t
  · rw [memWrite_outside hout]
    split
    · exact next _
    · rintro _ ⟨⟩
      exact .data (hi hout) hout

theorem of_pmRead {a : Word} (data : DataStep s u) (hi : mayFaultProgram i = true) :
    FaultsAsListed i s.cfg (pmRead u a) := by
  rw [← data.cfg]
  rcases Nat.lt_or_ge a.toNat u.cfg.romWords with hin | hout
  · rw [pmRead_in hin]
    exact next _
  · rw [pmRead_out hout]
    rintro _ ⟨⟩
    exact .program hi hout

theorem of_pushRet {ret : Word} (hi : mayFaultData i = true) : FaultsAsListed i s.cfg (pushRet s ret) :=
  bind (of_memWrite .refl fun _ => hi) fun _ h => bind_next (of_memWrite (DataStep.refl.then_memWrite h) fun _ => hi)

theorem of_popRet (hi : mayFaultData i = true) : FaultsAsListed i s.cfg (popRet s) :=
  bind (of_memRead .refl fun _ => hi) fun _ h => bind_next (of_memRead (DataStep.refl.then_memRead h) fun _ => hi)

/-! ### The instruction shapes -/

theorem of_loadIndirect {p : Pointer} {f : Form} {d : Reg} (hi : mayFaultData i = true) :
    FaultsAsListed i s.cfg (loadIndirect s p f d) := by
  unfold loadIndirect
  split
  · exact refused _
  · exact bind_next (of_memRead (DataStep.refl.then_updateBefore p _ f) fun _ => hi)

theorem of_storeIndirect {p : Pointer} {f : Form} {r : Reg} (hi : mayFaultData i = true) :
    FaultsAsListed i s.cfg (storeIndirect s p f r) := by
  unfold storeIndirect
  split
  · exact refused _
  · exact bind_next (of_memWrite (DataStep.refl.then_updateBefore p _ f) fun _ => hi)

theorem of_loadProgram {f : Form} {d : Reg} (hi : mayFaultProgram i = true) :
    FaultsAsListed i s.cfg (loadProgram s f d) := by
  unfold loadProgram
  split
  · exact refused _
  · exact bind_next (bind_next (of_pmRead .refl hi))

theorem of_exchangeZ {d : Reg} {f : Byte → Byte → Byte} (hi : mayFaultData i = true) :
    FaultsAsListed i s.cfg (exchangeZ s d f) :=
  bind (of_memRead .refl fun _ => hi) fun _ h => bind_next (of_memWrite (DataStep.refl.then_memRead h) fun _ => hi)

/-- R74, R521: an I/O address is never out of range. -/
theorem of_modifyIo {a : BitVec 5} {f : Byte → Byte} (hl : s.cfg.Legal) : FaultsAsListed i s.cfg (modifyIo s a f) := by
  have hin := (ioAddr5_lt hl a).not_ge
  exact bind (of_memRead .refl fun hout => absurd hout hin) fun _ h =>
    bind_next (of_memWrite (DataStep.refl.then_memRead h) fun hout => absurd hout hin)

/-- R330: a skip reads the next opcode. -/
theorem of_skip {cond : Bool} (data : DataStep s u) (hi : mayFaultProgram i = true) :
    FaultsAsListed i s.cfg (skip u cond) := by
  cases cond with
  | true => exact bind_next (of_pmRead data hi)
  | false => exact next _

/-- `SBIC`, `SBIS`: only the skip can fault. -/
theorem of_skipOnIo {a : BitVec 5} {cond : Byte → Bool} (hl : s.cfg.Legal) (hi : mayFaultProgram i = true) :
    FaultsAsListed i s.cfg ((memRead s (ioAddr5 a)).bind fun (v, s1) => skip s1 (cond v)) :=
  bind (of_memRead .refl fun hout => absurd hout (ioAddr5_lt hl a).not_ge) fun _ h =>
    of_skip (DataStep.refl.then_memRead h) hi

theorem of_branch {cond : Bool} {k : BitVec 7} : FaultsAsListed i c (branch s cond k) := by
  cases cond with
  | true => exact next _
  | false => exact next _

/-! ### Every instruction -/

/-- R521: by the shape of its meaning, an instruction faults as its row of the table says. -/
theorem of_exec (hl : s.cfg.Legal) (i : Instr) : FaultsAsListed i s.cfg (exec i s) := by
  cases i with dsimp only [exec]
  | ldX | ldXInc | ldXDec | ldYInc | ldYDec | lddY | ldZInc | ldZDec | lddZ => exact of_loadIndirect rfl
  | ldY => exact of_loadIndirect (p := .y) (f := .disp 0) rfl
  | ldZ => exact of_loadIndirect (p := .z) (f := .disp 0) rfl
  | stX | stXInc | stXDec | stYInc | stYDec | stdY | stZInc | stZDec | stdZ => exact of_storeIndirect rfl
  | stY => exact of_storeIndirect (p := .y) (f := .disp 0) rfl
  | stZ => exact of_storeIndirect (p := .z) (f := .disp 0) rfl
  | lpm | lpmZ | lpmZInc | elpm | elpmZ | elpmZInc => exact of_loadProgram rfl
  | lds => exact bind_next (of_memRead .refl fun _ => rfl)
  | pop => exact bind_next (of_memRead (DataStep.refl.then_setSp _) fun _ => rfl)
  | sts | push => exact bind_next (of_memWrite .refl fun _ => rfl)
  | in_ d a => exact bind_next (of_memRead .refl fun hout => absurd hout (ioAddr6_lt hl a).not_ge)
  | out a r => exact bind_next (of_memWrite .refl fun hout => absurd hout (ioAddr6_lt hl a).not_ge)
  | rcall | icall | call => exact bind_next (of_pushRet rfl)
  | ret | reti => exact bind_next (of_popRet rfl)
  | xch | las | lac | lat => exact of_exchangeZ rfl
  | sbi | cbi => exact of_modifyIo hl
  | cpse | sbrc | sbrs => exact of_skip .refl rfl
  | sbic a b => exact of_skipOnIo (cond := fun v => !v.getLsbD b.val) hl rfl
  | sbis a b => exact of_skipOnIo (cond := fun v => v.getLsbD b.val) hl rfl
  | brbs | brbc | brcs | brlo | brcc | brsh | breq | brne | brmi | brpl | brvs | brvc | brlt | brge | brhs | brhc | brts
  | brtc | brie | brid => exact of_branch
  | _ => exact next _

end FaultsAsListed

/-- Settles O47: `FaultsAsListed.of_exec`, read for each of the two faults. -/
theorem faultsComeFromTheListedInstructions : Obligations.FaultsComeFromTheListedInstructions := by
  refine fun i s hl => ⟨fun a h => ?_, fun a h => ?_⟩
  · cases FaultsAsListed.of_exec hl i _ h with
    | data listed outside => exact ⟨listed, outside⟩
  · cases FaultsAsListed.of_exec hl i _ h with
    | program listed outside => exact ⟨listed, outside⟩

end Sys2Proof.Machine
end
